-- ==== Sys2Proof/Word.lean ====
section
/-! DEFINITION. The word types of EGFT-CFB (spec/00_scope.md R10, R11): bytes, 16-bit halves and 32-bit words, all
unsigned. There is no signed quantity. -/

namespace Sys2Proof

/-- A byte: 8 bits, value 0 to 255 (R10). -/
abbrev Byte := BitVec 8

/-- A 16-bit quantity: an operation word (R80), the `CRC16` register (R37), a length field (R67). -/
abbrev Half := BitVec 16

/-- A 32-bit quantity: an operand register (R21), a control register, an address or a length (R61). -/
abbrev Word := BitVec 32

end Sys2Proof
end

