-- ==== Sys2Proof/Config.lean ====
section
/-! DEFINITION. What an implementation of EGFT-CFB fixes (spec/00_scope.md R7): the fixed parameters as constants, and
the FREE VALUES, the choices of the environment and the contents the spec leaves open, as opaque constants that nothing
in Lean can evaluate. The two OPEN counting parameters `XM_FIRST_EXTRA` and `BR_FIRST_EXTRA` are arguments of the model
and stand in `State` (`Params`), so that every statement covers both of their values. -/

namespace Sys2Proof.Config

/-- `PBUF_BYTES` = 2^24 (R7, R60): the size of the payload buffer and the longest message MD5 and SHA-256 accept. -/
def pbufBytes : Nat := 2 ^ 24

/-- `XM_BLOCK` = 1024 (R7): data bytes of one XMODEM packet. -/
def xmBlock : Nat := 1024

/-- `XM_MAXR_RESET` = 5 (R7, R35). -/
def xmMaxrReset : Byte := 5#8

/-- `XM_PAD_RESET` = 0xFF (R7, R35). -/
def xmPadReset : Byte := 0xFF#8

/-- `BAUD_SAFE` = 115 200 (R7): the rate the BK procedure reverts to and the reset value of `BAUD_CUR`. -/
def baudSafe : Word := 115200#32

/-- `BAUD_TARGET_DEFAULT` = 921 600 (R7): documentation of the outer application only; no rule reads it. -/
def baudTargetDefault : Word := 921600#32

/-- `BR_RETRY` = 10 (R7, R238). -/
def brRetry : Nat := 10

/-- `LP_PD_POLLS` = 500 (R7, R276). -/
def lpPdPolls : Nat := 500

/-- Largest payload of a BL frame and of an ESP command: the 16-bit length field (R272, R286). -/
def len16Max : Nat := 65535

/-- Largest parameter string of a WM frame: `total_len = |Q| + 6` has 16 bits (R295). -/
def w21ParamMax : Nat := 65529

/-- `T_BK_FLUSH`, in milliseconds (R7, R385). No rule's result depends on a duration (R9). -/
def tBkFlushMs : Nat := 20

/-- `T_BK_RESP`, in milliseconds (R7, R385). No rule's result depends on it (R9). -/
def tBkRespMs : Nat := 500

/-- `T_WM_SWITCH`, in milliseconds (R7, R385). No rule's result depends on it (R9). -/
def tWmSwitchMs : Nat := 20

/-- `T_LP_PD`, in milliseconds (R7, R385). No rule's result depends on it (R9). -/
def tLpPdMs : Nat := 20

/-- `T_BLACKOUT`, in milliseconds, an upper bound (R7). No rule's result depends on it (R9, R233). -/
def tBlackoutMs : Nat := 50

/-- `T_XM_INIT`, in milliseconds: OPEN, no value in the source (R7); no rule's result depends on it (R9). -/
opaque tXmInitMs : Nat

/-- `T_XM_RESP`, in milliseconds: OPEN, no value in the source (R7); no rule's result depends on it (R9). -/
opaque tXmRespMs : Nat

/-- `T_CMD`, in milliseconds, by operation word: OPEN, supplied by the host (R7); no rule's result depends on it (R9). -/
opaque tCmdMs : Half → Nat

/-- `TIMEOUT_MULT` in thousandths: OPEN, a real number of at least 1.0 (R7); the model has no clock, so no rule's result
depends on it (R9, R338). -/
opaque timeoutMultThousandths : Nat

/-- `TRANSPORT_REOPENS`: OPEN (R7); both kinds of transport give the same architectural effects (R246, U15). -/
opaque transportReopens : Bool

/-- FREE VALUE (R53, U2): the byte that a `PBUF` address holds after POR, until the host or an operation writes it. -/
opaque pbufPowerOn : Nat → Byte

/-- FREE VALUE (R339, U21): whether the environment fails a `connect()`, by the number of the draw. -/
opaque connectFails : Nat → Bool

/-- FREE VALUE (R340, U21): whether the environment fails a `write`, by the number of the draw. -/
opaque writeFails : Nat → Bool

/-- FREE VALUE (R233, U6): what `RXQ` holds after a `set_baud`, by the number of the draw and what it held before. -/
opaque rxqAfterSetBaud : Nat → List Byte → List Byte

/-- FREE VALUE (R158, U4): the 64 bytes of `MD5_BUF` after `MD5.FIN`, by the number of the draw. -/
opaque md5BufAfterFin : Nat → Vector Byte 64

/-- FREE VALUE (R179, U4): the 64 bytes of `SHA_BUF` after `SHA.FIN`, by the number of the draw. -/
opaque shaBufAfterFin : Nat → Vector Byte 64

end Sys2Proof.Config
end

