-- ==== Sys2Proof/Syntax.lean ====
section
/-! DEFINITION. The instructions of EGFT-CFB: one constructor per row of the opcode map (spec/30_encoding.md R84,
spec/opcode_table.json). Operands other than `IMM8` are in the operand registers and are not part of an instruction
(R80). -/

namespace Sys2Proof

/-- The 43 operations. A format I or F operation carries its immediate byte `IMM8` (R81, R82). -/
inductive Instr where
  /-- `CTX.OPEN` (R101): create the OperationContext and connect the transport. -/
  | ctxOpen
  /-- `CTX.CLOSE` (R102): destroy the context and release the transport. -/
  | ctxClose
  /-- `RX.DRAIN` (R103): discard everything received so far. -/
  | rxDrain
  /-- `TX.RAW` (R106): transmit a `PBUF` range unframed. -/
  | txRaw
  /-- `RX.RAW` (R105): receive a fixed number of bytes. -/
  | rxRaw
  /-- `C16.INITF` (R126): load the CCITT-FALSE initial value. -/
  | c16Initf
  /-- `C16.INITX` (R127): load the XMODEM initial value. -/
  | c16Initx
  /-- `C16.UPDB` (R129): absorb one byte into `CRC16`. -/
  | c16Updb (imm : Byte)
  /-- `C16.UPDM` (R130): absorb a `PBUF` range into `CRC16`. -/
  | c16Updm
  /-- `C16.RD` (R131): read `CRC16`. -/
  | c16Rd
  /-- `C16.CALCF` (R132): one-shot CRC-16/CCITT-FALSE. -/
  | c16Calcf
  /-- `C16.CALCX` (R133): one-shot CRC-16/XMODEM. -/
  | c16Calcx
  /-- `C32.INIT` (R137): load the caller-supplied initial value. -/
  | c32Init
  /-- `C32.UPDB` (R138): absorb one byte into `CRC32`. -/
  | c32Updb (imm : Byte)
  /-- `C32.UPDM` (R139): absorb a `PBUF` range into `CRC32`. -/
  | c32Updm
  /-- `C32.RD` (R140): read `CRC32`. -/
  | c32Rd
  /-- `C32.CALC` (R141): one-shot CRC-32. -/
  | c32Calc
  /-- `MD5.INIT` (R157): start an MD5 digest. -/
  | md5Init
  /-- `MD5.UPDB` (R161): absorb one byte. -/
  | md5Updb (imm : Byte)
  /-- `MD5.UPDM` (R162): absorb a `PBUF` range. -/
  | md5Updm
  /-- `MD5.FIN` (R158): pad, finish, deliver the digest. -/
  | md5Fin
  /-- `MD5.CALC` (R163): one-shot MD5 digest. -/
  | md5Calc
  /-- `SHA.INIT` (R176): start a SHA-256 digest. -/
  | shaInit
  /-- `SHA.UPDB` (R177): absorb one byte. -/
  | shaUpdb (imm : Byte)
  /-- `SHA.UPDM` (R178): absorb a `PBUF` range. -/
  | shaUpdm
  /-- `SHA.FIN` (R179): pad, finish, deliver the digest. -/
  | shaFin
  /-- `SHA.CALC` (R181): one-shot SHA-256 digest. -/
  | shaCalc
  /-- `XM.PAD` (R194): set the XMODEM padding byte. -/
  | xmPad (imm : Byte)
  /-- `XM.MAXR` (R195): set the XMODEM retry limit. -/
  | xmMaxr (imm : Byte)
  /-- `XM.SEND` (R198): send a `PBUF` range as an XMODEM-1K transfer. -/
  | xmSend
  /-- `BR.SET` (R234): set the transport rate with no dialogue. -/
  | brSet
  /-- `BR.NEG.BK` (R237): the BK7231 baud switch. -/
  | brNegBk
  /-- `BR.NEG.ESP` (R244): the ESP32 baud change. -/
  | brNegEsp
  /-- `BR.NEG.WM` (R246): the WM baud change. -/
  | brNegWm
  /-- `LP.ENC` (R273): build a BL request (`IMM8` = opcode) and transmit it. -/
  | lpEnc (imm : Byte)
  /-- `LP.DEC` (R275): receive a BL response (`IMM8[0]` = the `DATA` flag). -/
  | lpDec (imm : Byte)
  /-- `SL.ENC` (R283): SLIP-encode a `PBUF` range and transmit it. -/
  | slEnc
  /-- `SL.DEC` (R284): receive one SLIP frame. -/
  | slDec
  /-- `SL.CMD` (R288): build an ESP command (`IMM8` = opcode) and transmit it. -/
  | slCmd (imm : Byte)
  /-- `SL.RSP` (R290): take an ESP response apart (`IMM8` = expected opcode). -/
  | slRsp (imm : Byte)
  /-- `SL.XSUM` (R287): the ESP data checksum of a `PBUF` range. -/
  | slXsum
  /-- `W21.ENC` (R297): build a WM frame and transmit it. -/
  | w21Enc
  /-- `W21.CHK` (R298): check a WM frame and take it apart. -/
  | w21Chk
deriving DecidableEq, Repr

end Sys2Proof
end

