-- ==== Sys2Proof/WellFormed.lean ====
section
/-! DEFINITION. Which instruction terms the encoding admits (spec/30_encoding.md R81, R85). The types of the operands
admit every `IMM8`; format F alone (`LP.DEC`) forbids some: bits 7:1 of its immediate must be 0. -/

namespace Sys2Proof

/-- Bits 7:1 of a format F immediate are 0 (R81). -/
def flagByteOk (imm : Byte) : Bool := imm &&& 0xFE#8 == 0#8

/-- The instruction has a word that R84 selects it by. -/
def Instr.wellFormed : Instr → Bool
  | .lpDec imm => flagByteOk imm
  | .ctxOpen | .ctxClose | .rxDrain | .txRaw | .rxRaw => true
  | .c16Initf | .c16Initx | .c16Updb _ | .c16Updm | .c16Rd | .c16Calcf | .c16Calcx => true
  | .c32Init | .c32Updb _ | .c32Updm | .c32Rd | .c32Calc => true
  | .md5Init | .md5Updb _ | .md5Updm | .md5Fin | .md5Calc => true
  | .shaInit | .shaUpdb _ | .shaUpdm | .shaFin | .shaCalc => true
  | .xmPad _ | .xmMaxr _ | .xmSend => true
  | .brSet | .brNegBk | .brNegEsp | .brNegWm => true
  | .lpEnc _ | .slEnc | .slDec | .slCmd _ | .slRsp _ | .slXsum | .w21Enc | .w21Chk => true

end Sys2Proof
end

