-- ==== Sys2Proof/Decode.lean ====
section
/-! DEFINITION. The decoder and the encoder of operation words (spec/30_encoding.md R80 to R85). An operation word is
presented whole, as 16 bits, so no byte order is involved (R66, R80). -/

namespace Sys2Proof

/-- The formats of R81: no immediate, immediate byte, flag immediate. -/
inductive Format where
  /-- Format N: bits 7:0 must be 0. -/
  | n
  /-- Format I: bits 7:0 are `IMM8`. -/
  | i
  /-- Format F: bits 7:1 must be 0, bit 0 is `DATA`. -/
  | f
deriving DecidableEq, Repr

/-- Why a word selects no operation (R85). Each is the fault `IllegalOperation`, never a neighbouring instruction. -/
inductive DecodeError where
  /-- The opcode is not listed in R84. -/
  | unlistedOpcode (opc : Byte)
  /-- A format N word whose `OPW[7:0]` is not zero. -/
  | nonzeroLowByte (imm : Byte)
  /-- A format F word whose `OPW[7:1]` is not zero. -/
  | nonzeroFlagBits (imm : Byte)
deriving DecidableEq, Repr

/-- `OPC = OPW[15:8]` (R80). -/
def opcOf (w : Half) : Byte := w.extractLsb' 8 8

/-- `IMM8 = OPW[7:0]` (R80). -/
def immOf (w : Half) : Byte := w.extractLsb' 0 8

/-- A format N word: the low byte must be zero (R81). -/
def formatN (i : Instr) (imm : Byte) : Except DecodeError Instr :=
  if imm = 0#8 then .ok i else .error (.nonzeroLowByte imm)

/-- A format I word: the low byte is the immediate (R81). -/
def formatI (mk : Byte → Instr) (imm : Byte) : Except DecodeError Instr := .ok (mk imm)

/-- A format F word: bits 7:1 must be zero (R81). -/
def formatF (mk : Byte → Instr) (imm : Byte) : Except DecodeError Instr :=
  if flagByteOk imm then .ok (mk imm) else .error (.nonzeroFlagBits imm)

/-- The operation an operation word selects (R84, R85): total, and rejecting by name. -/
def decode (w : Half) : Except DecodeError Instr :=
  match opcOf w with
  | 0x01#8 => formatN .ctxOpen (immOf w)
  | 0x02#8 => formatN .ctxClose (immOf w)
  | 0x03#8 => formatN .rxDrain (immOf w)
  | 0x04#8 => formatN .txRaw (immOf w)
  | 0x05#8 => formatN .rxRaw (immOf w)
  | 0x10#8 => formatN .c16Initf (immOf w)
  | 0x11#8 => formatN .c16Initx (immOf w)
  | 0x12#8 => formatI .c16Updb (immOf w)
  | 0x13#8 => formatN .c16Updm (immOf w)
  | 0x14#8 => formatN .c16Rd (immOf w)
  | 0x15#8 => formatN .c16Calcf (immOf w)
  | 0x16#8 => formatN .c16Calcx (immOf w)
  | 0x20#8 => formatN .c32Init (immOf w)
  | 0x22#8 => formatI .c32Updb (immOf w)
  | 0x23#8 => formatN .c32Updm (immOf w)
  | 0x24#8 => formatN .c32Rd (immOf w)
  | 0x25#8 => formatN .c32Calc (immOf w)
  | 0x30#8 => formatN .md5Init (immOf w)
  | 0x32#8 => formatI .md5Updb (immOf w)
  | 0x33#8 => formatN .md5Updm (immOf w)
  | 0x34#8 => formatN .md5Fin (immOf w)
  | 0x35#8 => formatN .md5Calc (immOf w)
  | 0x40#8 => formatN .shaInit (immOf w)
  | 0x42#8 => formatI .shaUpdb (immOf w)
  | 0x43#8 => formatN .shaUpdm (immOf w)
  | 0x44#8 => formatN .shaFin (immOf w)
  | 0x45#8 => formatN .shaCalc (immOf w)
  | 0x50#8 => formatI .xmPad (immOf w)
  | 0x51#8 => formatI .xmMaxr (immOf w)
  | 0x52#8 => formatN .xmSend (immOf w)
  | 0x60#8 => formatN .brSet (immOf w)
  | 0x61#8 => formatN .brNegBk (immOf w)
  | 0x62#8 => formatN .brNegEsp (immOf w)
  | 0x63#8 => formatN .brNegWm (immOf w)
  | 0x70#8 => formatI .lpEnc (immOf w)
  | 0x71#8 => formatF .lpDec (immOf w)
  | 0x74#8 => formatN .slEnc (immOf w)
  | 0x75#8 => formatN .slDec (immOf w)
  | 0x76#8 => formatI .slCmd (immOf w)
  | 0x77#8 => formatI .slRsp (immOf w)
  | 0x78#8 => formatN .slXsum (immOf w)
  | 0x7C#8 => formatN .w21Enc (immOf w)
  | 0x7D#8 => formatN .w21Chk (immOf w)
  | opc => .error (.unlistedOpcode opc)

/-- The opcode of an operation (R84, first column). -/
def Instr.opc : Instr → Byte
  | .ctxOpen => 0x01#8
  | .ctxClose => 0x02#8
  | .rxDrain => 0x03#8
  | .txRaw => 0x04#8
  | .rxRaw => 0x05#8
  | .c16Initf => 0x10#8
  | .c16Initx => 0x11#8
  | .c16Updb _ => 0x12#8
  | .c16Updm => 0x13#8
  | .c16Rd => 0x14#8
  | .c16Calcf => 0x15#8
  | .c16Calcx => 0x16#8
  | .c32Init => 0x20#8
  | .c32Updb _ => 0x22#8
  | .c32Updm => 0x23#8
  | .c32Rd => 0x24#8
  | .c32Calc => 0x25#8
  | .md5Init => 0x30#8
  | .md5Updb _ => 0x32#8
  | .md5Updm => 0x33#8
  | .md5Fin => 0x34#8
  | .md5Calc => 0x35#8
  | .shaInit => 0x40#8
  | .shaUpdb _ => 0x42#8
  | .shaUpdm => 0x43#8
  | .shaFin => 0x44#8
  | .shaCalc => 0x45#8
  | .xmPad _ => 0x50#8
  | .xmMaxr _ => 0x51#8
  | .xmSend => 0x52#8
  | .brSet => 0x60#8
  | .brNegBk => 0x61#8
  | .brNegEsp => 0x62#8
  | .brNegWm => 0x63#8
  | .lpEnc _ => 0x70#8
  | .lpDec _ => 0x71#8
  | .slEnc => 0x74#8
  | .slDec => 0x75#8
  | .slCmd _ => 0x76#8
  | .slRsp _ => 0x77#8
  | .slXsum => 0x78#8
  | .w21Enc => 0x7C#8
  | .w21Chk => 0x7D#8

/-- The low byte of an operation's word (R81). -/
def Instr.low : Instr → Byte
  | .ctxOpen => 0#8
  | .ctxClose => 0#8
  | .rxDrain => 0#8
  | .txRaw => 0#8
  | .rxRaw => 0#8
  | .c16Initf => 0#8
  | .c16Initx => 0#8
  | .c16Updb imm => imm
  | .c16Updm => 0#8
  | .c16Rd => 0#8
  | .c16Calcf => 0#8
  | .c16Calcx => 0#8
  | .c32Init => 0#8
  | .c32Updb imm => imm
  | .c32Updm => 0#8
  | .c32Rd => 0#8
  | .c32Calc => 0#8
  | .md5Init => 0#8
  | .md5Updb imm => imm
  | .md5Updm => 0#8
  | .md5Fin => 0#8
  | .md5Calc => 0#8
  | .shaInit => 0#8
  | .shaUpdb imm => imm
  | .shaUpdm => 0#8
  | .shaFin => 0#8
  | .shaCalc => 0#8
  | .xmPad imm => imm
  | .xmMaxr imm => imm
  | .xmSend => 0#8
  | .brSet => 0#8
  | .brNegBk => 0#8
  | .brNegEsp => 0#8
  | .brNegWm => 0#8
  | .lpEnc imm => imm
  | .lpDec imm => imm
  | .slEnc => 0#8
  | .slDec => 0#8
  | .slCmd imm => imm
  | .slRsp imm => imm
  | .slXsum => 0#8
  | .w21Enc => 0#8
  | .w21Chk => 0#8

/-- The format of an operation (R84, third column). -/
def Instr.format : Instr → Format
  | .ctxOpen => .n
  | .ctxClose => .n
  | .rxDrain => .n
  | .txRaw => .n
  | .rxRaw => .n
  | .c16Initf => .n
  | .c16Initx => .n
  | .c16Updb _ => .i
  | .c16Updm => .n
  | .c16Rd => .n
  | .c16Calcf => .n
  | .c16Calcx => .n
  | .c32Init => .n
  | .c32Updb _ => .i
  | .c32Updm => .n
  | .c32Rd => .n
  | .c32Calc => .n
  | .md5Init => .n
  | .md5Updb _ => .i
  | .md5Updm => .n
  | .md5Fin => .n
  | .md5Calc => .n
  | .shaInit => .n
  | .shaUpdb _ => .i
  | .shaUpdm => .n
  | .shaFin => .n
  | .shaCalc => .n
  | .xmPad _ => .i
  | .xmMaxr _ => .i
  | .xmSend => .n
  | .brSet => .n
  | .brNegBk => .n
  | .brNegEsp => .n
  | .brNegWm => .n
  | .lpEnc _ => .i
  | .lpDec _ => .f
  | .slEnc => .n
  | .slDec => .n
  | .slCmd _ => .i
  | .slRsp _ => .i
  | .slXsum => .n
  | .w21Enc => .n
  | .w21Chk => .n

/-- The operation word of an instruction: `(OPC << 8) or IMM8` (R87). -/
def encode (i : Instr) : Half := i.opc ++ i.low

/-- The mask column of R84, by format. -/
def Format.mask : Format → Half
  | .n => 0xFFFF#16
  | .i => 0xFF00#16
  | .f => 0xFFFE#16

/-- The operation that the decoder reads from an instruction given as the host gives it: `w` with `nbits` bits, bit 0 the
least significant of the one 16-bit word. -/
def decodeTableWord (nbits w : Nat) : Option Instr :=
  match decode (BitVec.ofNat 16 (w % 2 ^ nbits)) with
  | .ok i => some i
  | .error _ => none

end Sys2Proof
end

