-- ==== Sys2Proof/Machine/State.lean ====
section
/-! DEFINITION. The state of EGFT-CFB as plain data (spec/10_state.md R20), the machine's reasons to stop, and the state
after POR (R53). Fields marked MODEL are the model's own: the schedule of the other agents' steps, the environment's
draws and the last answer of the host port (notes/assumptions/4.md, 5.md, 9.md). -/

namespace Sys2Proof.Machine

/-- The operand registers `x[0]` to `x[7]` (R21). -/
structure XRegs where
  /-- usually a `PBUF` address -/
  x0 : Word
  /-- usually a byte count -/
  x1 : Word
  /-- usually a 32-bit parameter -/
  x2 : Word
  /-- usually a second `PBUF` address -/
  x3 : Word
  /-- a further parameter -/
  x4 : Word
  /-- a further parameter -/
  x5 : Word
  /-- the main result -/
  x6 : Word
  /-- the second result -/
  x7 : Word
deriving DecidableEq, Repr

/-- The flags of `CTRL` (R29). Bits 31:5 read 0 and ignore writes, so they are not stored. -/
structure Ctrl where
  /-- bit 0, the cancel flag (R30) -/
  cancel : Bool
  /-- bit 1, the stub-uploaded flag (R31) -/
  stub : Bool
  /-- bit 2, `OPEN`: a context exists and the transport is connected (R32) -/
  opened : Bool
  /-- bit 3, the sticky fault flag (R33) -/
  fault : Bool
  /-- bit 4, `BUSY` -/
  busy : Bool
deriving DecidableEq, Repr

/-- `XM_CFG` (R35). -/
structure XmCfg where
  /-- bits 7:0 -/
  pad : Byte
  /-- bits 15:8 -/
  maxr : Byte
deriving DecidableEq, Repr

/-- `XM_STAT.STATE` (R44). Values 6 and 7 never occur and have no constructor. -/
inductive XmState where
  | idle | waitInit | send | eot | done | aborted
deriving DecidableEq, Repr

/-- `XM_STAT` (R44). -/
structure XmStat where
  /-- bits 2:0 -/
  state : XmState
  /-- bit 3: CRC-16 mode -/
  mode : Bool
  /-- bits 15:8: block number of the packet last transmitted -/
  blk : Byte
  /-- bits 23:16: retry counter -/
  retry : Byte
deriving DecidableEq, Repr

/-- `BR_STAT.STATE` (R46). Values 6 and 7 never occur and have no constructor. -/
inductive BrState where
  | idle | cmdSent | switched | reverted | done | failed
deriving DecidableEq, Repr

/-- `BR_STAT` (R46). -/
structure BrStat where
  /-- bits 2:0 -/
  state : BrState
  /-- bits 12:8: attempts started -/
  attempt : BitVec 5
deriving DecidableEq, Repr

/-- `VALID` (R36). -/
structure Valid where
  /-- bit 0: `CRC16` holds a value -/
  v16 : Bool
  /-- bit 1: `CRC32` holds a value -/
  v32 : Bool
  /-- bit 2: between `MD5.INIT` and `MD5.FIN` -/
  vmd5 : Bool
  /-- bit 3: between `SHA.INIT` and `SHA.FIN` -/
  vsha : Bool
deriving DecidableEq, Repr

/-- The MD5 chaining value `MD5_A` to `MD5_D` (R39). -/
structure Md5Words where
  /-- `MD5_A` -/
  a : Word
  /-- `MD5_B` -/
  b : Word
  /-- `MD5_C` -/
  c : Word
  /-- `MD5_D` -/
  d : Word
deriving DecidableEq, Repr

/-- The MD5 unit (R39, R40). -/
structure Md5Unit where
  /-- `MD5_A` to `MD5_D` -/
  words : Md5Words
  /-- `MD5_BUF`: the first `MD5_LEN mod 64` bytes are meaningful -/
  buf : Vector Byte 64
  /-- `MD5_LEN` -/
  len : Word
deriving DecidableEq, Repr

/-- The SHA-256 chaining value `SHA_H0` to `SHA_H7` (R41). -/
structure ShaWords where
  /-- `SHA_H0` -/
  h0 : Word
  /-- `SHA_H1` -/
  h1 : Word
  /-- `SHA_H2` -/
  h2 : Word
  /-- `SHA_H3` -/
  h3 : Word
  /-- `SHA_H4` -/
  h4 : Word
  /-- `SHA_H5` -/
  h5 : Word
  /-- `SHA_H6` -/
  h6 : Word
  /-- `SHA_H7` -/
  h7 : Word
deriving DecidableEq, Repr

/-- The SHA-256 unit (R41, R42). -/
structure ShaUnit where
  /-- `SHA_H0` to `SHA_H7` -/
  words : ShaWords
  /-- `SHA_BUF`: the first `SHA_LEN mod 64` bytes are meaningful -/
  buf : Vector Byte 64
  /-- `SHA_LEN` -/
  len : Word
deriving DecidableEq, Repr

/-- `PBUF` (R60): the bytes that something has written, addresses strictly rising. An address not listed holds no recorded
value; what a read of it gives is `Memory.byteAt`'s to say (notes/assumptions/3.md). -/
abbrev Memory := List Host.Cell

/-- The source's LogLevel values (R50). -/
inductive LogLevel where
  | info | warning | error | success
deriving DecidableEq, Repr

/-- The tag of a log event (R50); the block logs cancellation only (R337). -/
inductive LogTag where
  | cancelled
deriving DecidableEq, Repr

/-- An entry of the event trace `EVT` (R50). -/
inductive Event where
  /-- `Progress(bytes_sent, total, current_block, offset)` (R203) -/
  | progress (bytesSent total currentBlock offset : Word)
  /-- `Log(level, what)` (R337) -/
  | log (level : LogLevel) (what : LogTag)
deriving DecidableEq, Repr

/-- The continuation of a suspended operation (R25): the suspension point reached and the local variables its rule
names. -/
inductive Cont where
  /-- `RX.RAW` awaits `x[1]` bytes (R105) -/
  | rxRaw
  /-- `XM.SEND` awaits the initiation byte (R193) -/
  | xmInit
  /-- `XM.SEND` awaits the response to a packet (R199) -/
  | xmPacket
  /-- `XM.SEND` awaits the response to an `EOT` (R204) -/
  | xmEot
  /-- `BR.NEG.BK` lets its command `cmd` flush: `Delay(T_BK_FLUSH)` (R238) -/
  | bkFlush (cmd : List Byte)
  /-- `BR.NEG.BK` awaits the response at the new rate (R238) -/
  | bkResp (cmd : List Byte)
  /-- `BR.NEG.ESP` awaits a SLIP frame (R244) -/
  | espResp
  /-- `BR.NEG.WM` is in `Delay(T_WM_SWITCH)` (R246) -/
  | wmSwitch
  /-- `LP.DEC` awaits a two-byte prefix (R275); `data` is its `DATA` flag -/
  | lpPrefix (data : Bool) (polls : Nat)
  /-- `LP.DEC` is in `Delay(T_LP_PD)` (R275, R276) -/
  | lpPoll (data : Bool) (polls : Nat)
  /-- `LP.DEC` awaits the two length bytes (R275) -/
  | lpLen (polls : Nat)
  /-- `LP.DEC` awaits `n` data bytes (R275) -/
  | lpData (polls n : Nat)
  /-- `SL.DEC` awaits a SLIP frame (R284) -/
  | slDec
deriving DecidableEq, Repr

/-- What the host can do at the host port (R87, R26, R346). -/
inductive HostAction where
  /-- present an operation word (R80) -/
  | present (opw : Half)
  /-- `SET x[i] = v` -/
  | setX (i : Fin 8) (v : Word)
  /-- read `x[i]` (R21) -/
  | getX (i : Fin 8)
  /-- `POKE a: bytes` -/
  | poke (addr : Nat) (bytes : List Byte)
  /-- `PEEK a, n` -/
  | peek (addr n : Nat)
  /-- `GET`: read the register of that number (R26) -/
  | get (reg : Nat)
  /-- write a bit to `CTRL.CANCEL`; a 0 is ignored (R29) -/
  | cancel (bit : Bool)
  /-- `STUB v`: write `CTRL.STUB` (R29) -/
  | stub (bit : Bool)
  /-- write a whole register by number (R26); only `CTRL` has bits it can change -/
  | put (reg : Nat) (v : Word)
deriving DecidableEq, Repr

/-- One step of an agent other than the block (R18, R25). -/
inductive Turn where
  /-- the host acts -/
  | host (a : HostAction)
  /-- the peer appends a byte to `RXQ` (R63) -/
  | peer (b : Byte)
  /-- the environment raises `Timeout` on the pending wait (R338) -/
  | timeout
  /-- MODEL: before this turn the block passes at most `passes` suspension points whose condition holds and then rests,
  though it could go on, so that the turn after this one comes first (notes/assumptions/5.md) -/
  | hold (passes : Nat)
deriving DecidableEq, Repr

/-- MODEL: the last answer of the host port. -/
inductive HostReply where
  /-- nothing asked yet -/
  | none
  /-- the action was taken -/
  | accepted
  /-- the action was refused because the block is busy (R375, R376) -/
  | refused
  /-- the value read from a register -/
  | value (v : Word)
  /-- the bytes `PEEK` read -/
  | bytes (bs : List Byte)
deriving DecidableEq, Repr

/-- What the environment makes of `RXQ` at a `set_baud` (R233). -/
inductive RxqDraw where
  /-- the transport preserves the read stream -/
  | keep
  /-- the queue becomes this byte string -/
  | replace (bs : List Byte)
deriving DecidableEq, Repr

/-- MODEL: the environment's draws still to come, each list head first (R18, R233, R339, R340); where a list is empty the
draw is the opaque constant of `Config` at the index `drawn`. -/
structure EnvScript where
  /-- for each `connect()`: does it fail -/
  connects : List Bool
  /-- for each `write`: does it fail -/
  writes : List Bool
  /-- for each `set_baud`: the new `RXQ` -/
  rxqs : List RxqDraw
  /-- draws made so far; also indexes the free values of `MD5.FIN` and `SHA.FIN` -/
  drawn : Nat
deriving DecidableEq, Repr

/-- The OPEN counting parameters (R7): arguments of the model, which no step changes. -/
structure Params where
  /-- `XM_FIRST_EXTRA` (R201) -/
  xmFirstExtra : Bool
  /-- `BR_FIRST_EXTRA` (R238) -/
  brFirstExtra : Bool
deriving DecidableEq, Repr

/-- The state of the machine (R20). -/
structure State where
  /-- the operand registers (R21) -/
  x : XRegs
  /-- `STATUS` (R27) -/
  status : Byte
  /-- `INFO` (R28) -/
  info : Word
  /-- `CTRL` (R29) -/
  ctrl : Ctrl
  /-- `BAUD_CUR` (R34) -/
  baudCur : Word
  /-- `XM_CFG` (R35) -/
  xmCfg : XmCfg
  /-- `XM_STAT` (R44) -/
  xmStat : XmStat
  /-- `XM_BASE` (R43) -/
  xmBase : Word
  /-- `XM_TOTAL` (R43) -/
  xmTotal : Word
  /-- `XM_K` (R43) -/
  xmK : Word
  /-- `XM_SENT` (R43) -/
  xmSent : Word
  /-- `BR_STAT` (R46) -/
  brStat : BrStat
  /-- `BR_TARGET` (R47) -/
  brTarget : Word
  /-- `VALID` (R36) -/
  valid : Valid
  /-- `CRC16` (R37) -/
  crc16 : Half
  /-- `CRC32` (R38) -/
  crc32 : Word
  /-- the MD5 unit (R39, R40) -/
  md5 : Md5Unit
  /-- the SHA-256 unit (R41, R42) -/
  sha : ShaUnit
  /-- `PBUF` (R60) -/
  pbuf : Memory
  /-- `RXQ` (R63), oldest byte first -/
  rxq : List Byte
  /-- `TX` (R64), oldest byte first -/
  tx : List Byte
  /-- `EVT` (R50), oldest event first -/
  evt : List Event
  /-- `OPCUR` (R25); none while idle -/
  opcur : Option Half
  /-- the continuation (R25); none while idle -/
  cont : Option Cont
  /-- the OPEN counting parameters (R7) -/
  params : Params
  /-- MODEL: the other agents' steps to come -/
  turns : List Turn
  /-- MODEL: the environment's draws to come -/
  env : EnvScript
  /-- MODEL: the host port's last answer -/
  reply : HostReply
deriving DecidableEq, Repr

/-- Why the machine stops. Everything the spec calls a fault is a NEXT state (R343), so one reason is left. -/
inductive Fault where
  /-- Raised by the host port when the host pokes or peeks `PBUF` addresses past its end: the buffer has no
  such byte (R60) and the spec names no effect. SAFE: the model stops where a host port would do something unknown
  (notes/assumptions/8.md). -/
  | hostAddress (addr : Nat)
deriving DecidableEq, Repr

/-- Why a step has no meaning. -/
inductive Refusal where
  /-- Raised by `exec` for an instruction without a meaning; no instruction is left without one. SAFE: the model says
  nothing of such an instruction. -/
  | notModelled (mnemonic : String)
deriving DecidableEq, Repr

/-- The machine right after POR (R53, R371). The registers that R53 leaves unspecified hold zero, the values that
notes/assumptions/1.md and 2.md name; `PBUF` has nothing recorded (notes/assumptions/3.md). -/
def State.reset : State where
  x := ⟨0#32, 0#32, 0#32, 0#32, 0#32, 0#32, 0#32, 0#32⟩
  status := 0x00#8
  info := 0#32
  ctrl := ⟨false, false, false, false, false⟩
  baudCur := Config.baudSafe
  xmCfg := ⟨Config.xmPadReset, Config.xmMaxrReset⟩
  xmStat := ⟨.idle, false, 0#8, 0#8⟩
  xmBase := 0#32
  xmTotal := 0#32
  xmK := 0#32
  xmSent := 0#32
  brStat := ⟨.idle, 0#5⟩
  brTarget := 0#32
  valid := ⟨false, false, false, false⟩
  crc16 := 0#16
  crc32 := 0#32
  md5 := ⟨⟨0#32, 0#32, 0#32, 0#32⟩, Vector.replicate 64 0#8, 0#32⟩
  sha := ⟨⟨0#32, 0#32, 0#32, 0#32, 0#32, 0#32, 0#32, 0#32⟩, Vector.replicate 64 0#8, 0#32⟩
  pbuf := []
  rxq := []
  tx := []
  evt := []
  opcur := none
  cont := none
  params := ⟨true, true⟩
  turns := []
  env := ⟨[], [], [], 0⟩
  reply := .none

end Sys2Proof.Machine
end

