-- ==== Sys2Proof/Machine/Flags.lean ====
section
/-! DEFINITION. Status codes and the words of the control and status registers (spec/60_exceptions.md R331, R335,
spec/10_state.md R26 to R47): how each register's fields make the number the host reads. -/

namespace Sys2Proof.Machine

/-- The names of R331. `SyncFailed`, `VerificationMismatch`, `UnknownFlash` and `ProtectedRegion` are the host's: no
operation of the block ends with them. -/
inductive StatusCode where
  | ok | transportOpen | transportWrite | syncFailed | protocolFraming | protocolStatus | verificationMismatch
  | unknownFlash | protectedRegion | cancelled | xmodemInitiationFailed | xmodemCancelled | xmodemRetriesExhausted
  | baudNegotiationFailed | timeout | pendingExhausted | illegalOperation | bufferRange | lengthLimit | illegalOperand
  | noContext | notInitialised
deriving DecidableEq, Repr

/-- The code that `STATUS` takes (R331). -/
def StatusCode.code : StatusCode → Byte
  | .ok => 0x00#8
  | .transportOpen => 0x01#8
  | .transportWrite => 0x02#8
  | .syncFailed => 0x03#8
  | .protocolFraming => 0x04#8
  | .protocolStatus => 0x05#8
  | .verificationMismatch => 0x06#8
  | .unknownFlash => 0x07#8
  | .protectedRegion => 0x08#8
  | .cancelled => 0x09#8
  | .xmodemInitiationFailed => 0x0A#8
  | .xmodemCancelled => 0x0B#8
  | .xmodemRetriesExhausted => 0x0C#8
  | .baudNegotiationFailed => 0x0D#8
  | .timeout => 0x0E#8
  | .pendingExhausted => 0x0F#8
  | .illegalOperation => 0x10#8
  | .bufferRange => 0x11#8
  | .lengthLimit => 0x12#8
  | .illegalOperand => 0x13#8
  | .noContext => 0x14#8
  | .notInitialised => 0x15#8

/-- The information word of `ProtocolFraming`: `reason * 2^16 + detail` (R334, R335). -/
def framingInfo (reason detail : Half) : Word := reason ++ detail

/-- `CTRL` as the host reads it (R29). -/
def Ctrl.toWord (c : Ctrl) : Word :=
  0#27 ++ BitVec.ofBool c.busy ++ BitVec.ofBool c.fault ++ BitVec.ofBool c.opened ++ BitVec.ofBool c.stub
    ++ BitVec.ofBool c.cancel

/-- `XM_CFG` as the host reads it (R35). -/
def XmCfg.toWord (c : XmCfg) : Word := 0#16 ++ c.maxr ++ c.pad

/-- The three bits of `XM_STAT.STATE` (R44). -/
def XmState.code : XmState → BitVec 3
  | .idle => 0#3
  | .waitInit => 1#3
  | .send => 2#3
  | .eot => 3#3
  | .done => 4#3
  | .aborted => 5#3

/-- `XM_STAT` as the host reads it (R44). -/
def XmStat.toWord (s : XmStat) : Word := 0#8 ++ s.retry ++ s.blk ++ 0#4 ++ BitVec.ofBool s.mode ++ s.state.code

/-- The three bits of `BR_STAT.STATE` (R46). -/
def BrState.code : BrState → BitVec 3
  | .idle => 0#3
  | .cmdSent => 1#3
  | .switched => 2#3
  | .reverted => 3#3
  | .done => 4#3
  | .failed => 5#3

/-- `BR_STAT` as the host reads it (R46). -/
def BrStat.toWord (s : BrStat) : Word := 0#16 ++ (0#3 ++ s.attempt ++ 0#5 ++ s.state.code)

/-- `VALID` as the host reads it (R36). -/
def Valid.toWord (v : Valid) : Word :=
  0#28 ++ BitVec.ofBool v.vsha ++ BitVec.ofBool v.vmd5 ++ BitVec.ofBool v.v32 ++ BitVec.ofBool v.v16

/-- The register map (R26): the value of a register by its number, zero-extended. A number that is not in the map reads
as zero. No read has a side effect. -/
def State.readReg (s : State) : Nat → Word
  | 0x00 => s.status.setWidth 32
  | 0x01 => s.info
  | 0x02 => s.ctrl.toWord
  | 0x03 => s.baudCur
  | 0x04 => s.xmCfg.toWord
  | 0x05 => s.xmStat.toWord
  | 0x06 => s.xmBase
  | 0x07 => s.xmTotal
  | 0x08 => s.xmK
  | 0x09 => s.xmSent
  | 0x0A => s.brStat.toWord
  | 0x0B => s.brTarget
  | 0x10 => s.valid.toWord
  | 0x11 => s.crc16.setWidth 32
  | 0x12 => s.crc32
  | 0x20 => s.md5.words.a
  | 0x21 => s.md5.words.b
  | 0x22 => s.md5.words.c
  | 0x23 => s.md5.words.d
  | 0x24 => s.md5.len
  | 0x30 => s.sha.words.h0
  | 0x31 => s.sha.words.h1
  | 0x32 => s.sha.words.h2
  | 0x33 => s.sha.words.h3
  | 0x34 => s.sha.words.h4
  | 0x35 => s.sha.words.h5
  | 0x36 => s.sha.words.h6
  | 0x37 => s.sha.words.h7
  | 0x38 => s.sha.len
  | _ => 0#32

end Sys2Proof.Machine
end

