-- ==== Sys2Proof/Machine/Ops.lean ====
section
/-! DEFINITION. The operations the meanings share: byte order (spec/00_scope.md R12), memory (spec/20_memory.md R60 to
R62), the transport and its draws (spec/00_scope.md R14, spec/45_baud.md R232, R233), events (R50), and ending an
operation: TAKING A FAULT and SUCCESSFUL COMPLETION (spec/60_exceptions.md R343). There is no return from a fault
(R344): the host issues its next operation. -/

namespace Sys2Proof.Machine

/-! ### Byte order (R12) -/

/-- `le16(v)`: low byte first. -/
def le16 (v : Half) : List Byte := [v.extractLsb' 0 8, v.extractLsb' 8 8]

/-- `be16(v)`: high byte first. -/
def be16 (v : Half) : List Byte := [v.extractLsb' 8 8, v.extractLsb' 0 8]

/-- `le32(v)`: low byte first. -/
def le32 (v : Word) : List Byte :=
  [v.extractLsb' 0 8, v.extractLsb' 8 8, v.extractLsb' 16 8, v.extractLsb' 24 8]

/-- `be32(v)`: high byte first. -/
def be32 (v : Word) : List Byte :=
  [v.extractLsb' 24 8, v.extractLsb' 16 8, v.extractLsb' 8 8, v.extractLsb' 0 8]

/-- `le64(v)`: low byte first. -/
def le64 (v : BitVec 64) : List Byte := le32 (v.extractLsb' 0 32) ++ le32 (v.extractLsb' 32 32)

/-- `be64(v)`: high byte first. -/
def be64 (v : BitVec 64) : List Byte := be32 (v.extractLsb' 32 32) ++ be32 (v.extractLsb' 0 32)

/-- `from_le16(B) = B[0] + 256*B[1]`. -/
def fromLe16 (bs : List Byte) : Half := bs.getD 1 0#8 ++ bs.getD 0 0#8

/-- `from_le32(B)`: `B[0]` is the low byte. -/
def fromLe32 (bs : List Byte) : Word := bs.getD 3 0#8 ++ bs.getD 2 0#8 ++ bs.getD 1 0#8 ++ bs.getD 0 0#8

/-- `from_be32(B)`: `B[0]` is the high byte. -/
def fromBe32 (bs : List Byte) : Word := bs.getD 0 0#8 ++ bs.getD 1 0#8 ++ bs.getD 2 0#8 ++ bs.getD 3 0#8

/-- `rep(b, n)` (R10). -/
def rep (b : Byte) (n : Nat) : List Byte := List.replicate n b

/-- `X[a..b)` (R10). -/
def slice (bs : List Byte) (a b : Nat) : List Byte := (bs.drop a).take (b - a)

/-- The sum of the bytes modulo 256 (R89 (c)). -/
def sum8 (bs : List Byte) : Byte := bs.foldl (· + ·) 0#8

/-! ### `PBUF` (R60 to R62) -/

/-- What memory has recorded at an address: nothing where nothing has written. -/
def Memory.find : Memory → Nat → Option Byte
  | [], _ => none
  | (k, v) :: rest, a => if k = a then some v else Memory.find rest a

/-- Reading one byte (R61): the byte last written there; before any write the free value of power-on (R53, U2). -/
def Memory.byteAt (m : Memory) (a : Nat) : Byte := (m.find a).getD (Config.pbufPowerOn a)

/-- Writing one byte, keeping the addresses strictly rising. -/
def Memory.store : Memory → Nat → Byte → Memory
  | [], a, b => [(a, b)]
  | (k, v) :: rest, a, b =>
    if a < k then (a, b) :: (k, v) :: rest
    else if a = k then (a, b) :: rest
    else (k, v) :: Memory.store rest a b

/-- The bytes at addresses `a` to `a + n - 1`, lowest address first (R13). -/
def Memory.bytes (m : Memory) (a : Nat) : Nat → List Byte
  | 0 => []
  | n + 1 => m.byteAt a :: Memory.bytes m (a + 1) n

/-- Writing a byte string from address `a` upward (R13). -/
def Memory.storeBytes (m : Memory) (a : Nat) : List Byte → Memory
  | [] => m
  | b :: rest => Memory.storeBytes (m.store a b) (a + 1) rest

/-- The canonical form: addresses strictly rising, all of them addresses of `PBUF`. -/
abbrev Memory.wf (m : Memory) : Prop :=
  m.Pairwise (fun p q => p.1 < q.1) ∧ ∀ c ∈ m, c.1 < Config.pbufBytes

/-- The range check of R62: `addr + n ≤ PBUF_BYTES` over the integers. -/
def inRange (addr : Word) (n : Nat) : Bool := decide (addr.toNat + n ≤ Config.pbufBytes)

/-! ### Ending an operation (R343) -/

/-- TAKING A FAULT, `raise F(info)` (R15, R343): `STATUS`, `INFO`, `CTRL.FAULT`, then `OPCUR` and any continuation are
discarded and `CTRL.BUSY` falls. Nothing else is saved or changed. -/
def State.raise (s : State) (c : StatusCode) (info : Word) : State :=
  { s with
    status := c.code
    info := info
    ctrl := { s.ctrl with fault := true, busy := false }
    opcur := none
    cont := none }

/-- Successful completion (R343): `STATUS <- 0`, `INFO <- 0`, `CTRL.BUSY <- 0`; `CTRL.FAULT` unchanged. -/
def State.complete (s : State) : State :=
  { s with
    status := StatusCode.ok.code
    info := 0#32
    ctrl := { s.ctrl with busy := false }
    opcur := none
    cont := none }

/-- The operation is suspended at a point, its continuation kept (R25). -/
def State.suspend (s : State) (c : Cont) : State := { s with cont := some c }

/-- A wait that the operation does not enter where what it awaits is already there, so that no other agent steps at it (R105,
R237, R284): `go` goes on, else the operation is suspended at `c`. -/
def State.suspendUnless (s : State) (ready : Bool) (c : Cont) (go : State → State) : State :=
  if ready then go s else s.suspend c

/-! ### Operand registers (R21) -/

/-- `x[i]`. -/
def XRegs.get (x : XRegs) (i : Fin 8) : Word :=
  match i with
  | 0 => x.x0
  | 1 => x.x1
  | 2 => x.x2
  | 3 => x.x3
  | 4 => x.x4
  | 5 => x.x5
  | 6 => x.x6
  | 7 => x.x7

/-- `x[i] <- v`. -/
def XRegs.set (x : XRegs) (i : Fin 8) (v : Word) : XRegs :=
  match i with
  | 0 => { x with x0 := v }
  | 1 => { x with x1 := v }
  | 2 => { x with x2 := v }
  | 3 => { x with x3 := v }
  | 4 => { x with x4 := v }
  | 5 => { x with x5 := v }
  | 6 => { x with x6 := v }
  | 7 => { x with x7 := v }

/-- `x[6] <- v`, the main result. -/
def State.setX6 (s : State) (v : Word) : State := { s with x := { s.x with x6 := v } }

/-- `x[7] <- v`, the second result. -/
def State.setX7 (s : State) (v : Word) : State := { s with x := { s.x with x7 := v } }

/-! ### Events and the cancellation checkpoint (R50, R337) -/

/-- `Emit(e)`: append to `EVT`. -/
def State.emit (s : State) (e : Event) : State := { s with evt := s.evt ++ [e] }

/-- `Checkpoint()` (R337): where the cancel flag is set the log event is emitted and `abort` goes on (it sets the
machine's state register and raises `Cancelled`), else `go`. -/
def State.checkpoint (s : State) (abort go : State → State) : State :=
  if s.ctrl.cancel then abort (s.emit (.log .warning .cancelled)) else go s

/-! ### The transport (R14, R63, R64) and the environment's draws (R18) -/

/-- Does the next `connect()` fail (R339). -/
def EnvScript.connectFails (e : EnvScript) : Bool :=
  match e.connects with
  | b :: _ => b
  | [] => Config.connectFails e.drawn

/-- The draws left after a `connect()`. -/
def EnvScript.afterConnect (e : EnvScript) : EnvScript :=
  { e with connects := e.connects.tail, drawn := e.drawn + 1 }

/-- Does the next `write` fail (R340). -/
def EnvScript.writeFails (e : EnvScript) : Bool :=
  match e.writes with
  | b :: _ => b
  | [] => Config.writeFails e.drawn

/-- The draws left after a `write`. -/
def EnvScript.afterWrite (e : EnvScript) : EnvScript :=
  { e with writes := e.writes.tail, drawn := e.drawn + 1 }

/-- What the next `set_baud` makes of the queue `q` (R233). -/
def EnvScript.newRxq (e : EnvScript) (q : List Byte) : List Byte :=
  match e.rxqs with
  | .keep :: _ => q
  | .replace bs :: _ => bs
  | [] => Config.rxqAfterSetBaud e.drawn q

/-- The draws left after a `set_baud`. -/
def EnvScript.afterSetBaud (e : EnvScript) : EnvScript :=
  { e with rxqs := e.rxqs.tail, drawn := e.drawn + 1 }

/-- The draws left after a free value of `MD5.FIN` or `SHA.FIN`. -/
def EnvScript.afterFree (e : EnvScript) : EnvScript := { e with drawn := e.drawn + 1 }

/-- A `write` that the environment fails: nothing is appended to `TX` (R340). -/
def State.txFailed (s : State) : State := { s with env := s.env.afterWrite }

/-- A `write` that the environment lets pass: the bytes are appended to `TX` (R64). -/
def State.txSent (s : State) (bs : List Byte) : State :=
  { s with tx := s.tx ++ bs, env := s.env.afterWrite }

/-- `TxPut(B)` (R14, R340): one transport write, all or nothing; on failure `fail` goes on, else `ok`. The empty string
needs no write and cannot fail (R106, R237; notes/assumptions/11.md). -/
def State.txPut (s : State) (bs : List Byte) (fail ok : State → State) : State :=
  match bs with
  | [] => ok s
  | _ :: _ => if s.env.writeFails then fail s.txFailed else ok (s.txSent bs)

/-- The first `n` bytes of `RXQ` are removed (R14, R63). -/
def State.rxDrop (s : State) (n : Nat) : State := { s with rxq := s.rxq.drop n }

/-- The peer appends a byte to `RXQ` (R63). -/
def State.rxPut (s : State) (b : Byte) : State := { s with rxq := s.rxq ++ [b] }

/-- `SetBaud(r)` (R232): `BAUD_CUR <- r`, and `RXQ` is the environment's draw (R233). It cannot fail. -/
def State.setBaud (s : State) (r : Word) : State :=
  { s with baudCur := r, rxq := s.env.newRxq s.rxq, env := s.env.afterSetBaud }

end Sys2Proof.Machine
end

