-- ==== Sys2Proof/Machine/Operands.lean ====
section
/-! DEFINITION. The operand forms (spec/30_encoding.md R91, spec/20_memory.md R62, R72): the context check, the input
range `[x[0], x[0]+x[1])`, output ranges, and narrow values. -/

namespace Sys2Proof.Machine

/-- The check of `CTRL.OPEN` that comes first in an operation that needs a context (R32, R86). -/
def State.inContext (s : State) (go : State → State) : State :=
  if s.ctrl.opened then go s else s.raise .noContext 0#32

/-- The input range `[x[0], x[0]+x[1])` (R91): `MemRead(x[0], x[1])`, which raises `BufferRange(x[0])` before anything is
read (R62). -/
def State.withInput (s : State) (go : List Byte → State) : State :=
  if inRange s.x.x0 s.x.x1.toNat then go (s.pbuf.bytes s.x.x0.toNat s.x.x1.toNat) else s.raise .bufferRange s.x.x0

/-- The check of an output range `[addr, addr+n)` that comes before any effect: it raises `BufferRange(addr)` (R62). -/
def State.withRange (s : State) (addr : Word) (n : Nat) (go : State → State) : State :=
  if inRange addr n then go s else s.raise .bufferRange addr

/-- The bytes `bs` stand in `PBUF` from `addr` upward (R13). -/
def State.stored (s : State) (addr : Word) (bs : List Byte) : State :=
  { s with pbuf := s.pbuf.storeBytes addr.toNat bs }

/-- `MemWrite(addr, |B|, B)` (R13, R62): `fail` goes on where the range check fails. -/
def State.memWrite (s : State) (addr : Word) (bs : List Byte) (fail ok : State → State) : State :=
  if inRange addr bs.length then ok (s.stored addr bs) else fail s

/-- The check that the rate in `x[2]` is not 0: `IllegalOperand(2)` (R234). -/
def State.withRate (s : State) (go : State → State) : State :=
  if s.x.x2 = 0#32 then s.raise .illegalOperand 2#32 else go s

/-- The check that the length in `x[1]` fits a frame's length field: `IllegalOperand(1)` (R273, R288, R297). -/
def State.withLength (s : State) (limit : Nat) (go : State → State) : State :=
  if limit < s.x.x1.toNat then s.raise .illegalOperand 1#32 else go s

/-- A `TxPut` that ends its operation: `TransportWrite` on failure, else success (R106, R340). -/
def State.txFinal (s : State) (bs : List Byte) : State :=
  s.txPut bs (fun t => t.raise .transportWrite 0#32) State.complete

end Sys2Proof.Machine
end

