-- ==== Sys2Proof/Machine/Md5.lean ====
section
/-! DEFINITION. The MD5 core (spec/42_md5.md R150 to R165) and its five operations. -/

namespace Sys2Proof.Machine

/-- The rotate amount `S[i]` (R151): entry `i mod 4` of the group `i div 16`. -/
def md5Rot (i : Nat) : Nat :=
  match i / 16 with
  | 0 => [7, 12, 17, 22].getD (i % 4) 0
  | 1 => [5, 9, 14, 20].getD (i % 4) 0
  | 2 => [4, 11, 16, 23].getD (i % 4) 0
  | _ => [6, 10, 15, 21].getD (i % 4) 0

/-- The step constants `K` of R152, entries 0 to 15. -/
def md5K0 : List Word :=
  [0xD76AA478#32, 0xE8C7B756#32, 0x242070DB#32, 0xC1BDCEEE#32,
   0xF57C0FAF#32, 0x4787C62A#32, 0xA8304613#32, 0xFD469501#32,
   0x698098D8#32, 0x8B44F7AF#32, 0xFFFF5BB1#32, 0x895CD7BE#32,
   0x6B901122#32, 0xFD987193#32, 0xA679438E#32, 0x49B40821#32]

/-- The step constants `K` of R152, entries 16 to 31. -/
def md5K1 : List Word :=
  [0xF61E2562#32, 0xC040B340#32, 0x265E5A51#32, 0xE9B6C7AA#32,
   0xD62F105D#32, 0x02441453#32, 0xD8A1E681#32, 0xE7D3FBC8#32,
   0x21E1CDE6#32, 0xC33707D6#32, 0xF4D50D87#32, 0x455A14ED#32,
   0xA9E3E905#32, 0xFCEFA3F8#32, 0x676F02D9#32, 0x8D2A4C8A#32]

/-- The step constants `K` of R152, entries 32 to 47. -/
def md5K2 : List Word :=
  [0xFFFA3942#32, 0x8771F681#32, 0x6D9D6122#32, 0xFDE5380C#32,
   0xA4BEEA44#32, 0x4BDECFA9#32, 0xF6BB4B60#32, 0xBEBFBC70#32,
   0x289B7EC6#32, 0xEAA127FA#32, 0xD4EF3085#32, 0x04881D05#32,
   0xD9D4D039#32, 0xE6DB99E5#32, 0x1FA27CF8#32, 0xC4AC5665#32]

/-- The step constants `K` of R152, entries 48 to 63. -/
def md5K3 : List Word :=
  [0xF4292244#32, 0x432AFF97#32, 0xAB9423A7#32, 0xFC93A039#32,
   0x655B59C3#32, 0x8F0CCC92#32, 0xFFEFF47D#32, 0x85845DD1#32,
   0x6FA87E4F#32, 0xFE2CE6E0#32, 0xA3014314#32, 0x4E0811A1#32,
   0xF7537E82#32, 0xBD3AF235#32, 0x2AD7D2BB#32, 0xEB86D391#32]

/-- The step constants `K` of R152, 64 entries. -/
def md5K : List Word := md5K0 ++ md5K1 ++ md5K2 ++ md5K3

/-- The step function `f_i(b, c, d)` (R153). -/
def md5F (i : Nat) (b c d : Word) : Word :=
  match i / 16 with
  | 0 => (b &&& c) ||| (~~~b &&& d)
  | 1 => (d &&& b) ||| (~~~d &&& c)
  | 2 => b ^^^ c ^^^ d
  | _ => c ^^^ (b ||| ~~~d)

/-- The message-word index `g_i` (R153). -/
def md5G (i : Nat) : Nat :=
  match i / 16 with
  | 0 => i
  | 1 => (5 * i + 1) % 16
  | 2 => (3 * i + 5) % 16
  | _ => 7 * i % 16

/-- The sixteen words of a block, by `from_le32` (R154). -/
def md5Block (blk : List Byte) : List Word :=
  (List.range 16).map fun j => fromLe32 (slice blk (4 * j) (4 * j + 4))

/-- One step of the compression (R154): all four words at once. -/
def md5Step (x : List Word) (w : Md5Words) (i : Nat) : Md5Words :=
  let t := w.a + md5F i w.b w.c w.d + md5K.getD i 0#32 + x.getD (md5G i) 0#32
  ⟨w.d, w.b + t.rotateLeft (md5Rot i), w.b, w.c⟩

/-- `md5_compress((A, B, C, D), Blk)` (R154). -/
def md5Compress (w : Md5Words) (blk : List Byte) : Md5Words :=
  let r := (List.range 64).foldl (md5Step (md5Block blk)) w
  ⟨w.a + r.a, w.b + r.b, w.c + r.c, w.d + r.d⟩

/-- The first `n` consecutive 64-byte blocks of a byte string (R156). -/
def blocks64 : Nat → List Byte → List (List Byte)
  | 0, _ => []
  | n + 1, bs => bs.take 64 :: blocks64 n (bs.drop 64)

/-- The chaining value after absorbing whole blocks (R156). -/
def md5Absorb (w : Md5Words) (bs : List Byte) : Md5Words := (blocks64 (bs.length / 64) bs).foldl md5Compress w

/-- What follows a message of `len` bytes (R155): 0x80, zeros up to 56 modulo 64, the bit length as `le64`. -/
def md5PadTail (len : Nat) : List Byte :=
  0x80#8 :: (rep 0x00#8 ((119 - len % 64) % 64) ++ le64 (BitVec.ofNat 64 (8 * len)))

/-- `md5_pad(M)` (R155). -/
def md5Pad (m : List Byte) : List Byte := m ++ md5PadTail m.length

/-- The initial chaining value (R156). -/
def md5Init : Md5Words := ⟨0x67452301#32, 0xEFCDAB89#32, 0x98BADCFE#32, 0x10325476#32⟩

/-- The digest bytes of a chaining value (R70, R156). -/
def md5Digest (w : Md5Words) : List Byte := le32 w.a ++ le32 w.b ++ le32 w.c ++ le32 w.d

/-- `md5(M)` (R156). -/
def md5 (m : List Byte) : List Byte := md5Digest (md5Absorb md5Init (md5Pad m))

/-- Absorbing one byte (R161, last three lines). -/
def Md5Unit.absorb (u : Md5Unit) (b : Byte) : Md5Unit :=
  let buf := u.buf.set (u.len.toNat % 64) b (Nat.mod_lt _ (by decide))
  let len := u.len + 1#32
  if len.toNat % 64 = 0 then ⟨md5Compress u.words buf.toList, buf, len⟩ else ⟨u.words, buf, len⟩

/-- The bytes that finish the digest (R158, `Tail`): the meaningful part of `MD5_BUF` and the padding. -/
def Md5Unit.tail (u : Md5Unit) : List Byte := u.buf.toList.take (u.len.toNat % 64) ++ md5PadTail u.len.toNat

/-- The MD5 unit becomes `u`. -/
def State.setMd5 (s : State) (u : Md5Unit) : State := { s with md5 := u }

/-- `VMD5 <- v`. -/
def State.setVmd5 (s : State) (v : Bool) : State := { s with valid := { s.valid with vmd5 := v } }

/-- `MD5_BUF` after `MD5.FIN` is a free value (R158, U4). -/
def State.freeMd5Buf (s : State) : State :=
  { s with md5 := { s.md5 with buf := Config.md5BufAfterFin s.env.drawn }, env := s.env.afterFree }

/-- The check of `VMD5` (R160). -/
def State.withVmd5 (s : State) (go : State → State) : State :=
  if s.valid.vmd5 then go s else s.raise .notInitialised 3#32

/-- The length limit (R159): `LengthLimit(3)` where `n` more bytes would take `MD5_LEN` above 2^24. -/
def State.withMd5Room (s : State) (n : Nat) (go : State → State) : State :=
  if Config.pbufBytes < s.md5.len.toNat + n then s.raise .lengthLimit 3#32 else go s

/-- `MD5.INIT` (R157). `MD5_BUF` is not cleared. -/
def execMd5Init (s : State) : Host.Outcome State Fault Refusal :=
  .next (((s.setMd5 ⟨md5Init, s.md5.buf, 0#32⟩).setVmd5 true).complete)

/-- `MD5.UPDB #b` (R161). -/
def execMd5Updb (b : Byte) (s : State) : Host.Outcome State Fault Refusal :=
  .next (s.withVmd5 fun s => s.withMd5Room 1 fun s => (s.setMd5 (s.md5.absorb b)).complete)

/-- `MD5.UPDM` (R162). -/
def execMd5Updm (s : State) : Host.Outcome State Fault Refusal :=
  .next (s.withVmd5 fun s => s.withInput fun m => s.withMd5Room s.x.x1.toNat fun s =>
    (s.setMd5 (m.foldl Md5Unit.absorb s.md5)).complete)

/-- The unit with its digest finished (R158): `MD5_A` to `MD5_D` hold the digest words, `MD5_LEN` keeps its value. -/
def State.md5Finished (s : State) : State :=
  s.setMd5 { s.md5 with words := md5Absorb s.md5.words s.md5.tail }

/-- `MD5.FIN` (R158). -/
def execMd5Fin (s : State) : Host.Outcome State Fault Refusal :=
  .next (s.withVmd5 fun s => s.withRange s.x.x3 16 fun s =>
    (((s.md5Finished.stored s.x.x3 (md5Digest s.md5Finished.md5.words)).setVmd5 false).freeMd5Buf).complete)

/-- `MD5.CALC` (R163): the whole input is read before the digest is written (R75). -/
def execMd5Calc (s : State) : Host.Outcome State Fault Refusal :=
  .next (s.withInput fun m => s.withRange s.x.x3 16 fun s => (s.stored s.x.x3 (md5 m)).complete)

end Sys2Proof.Machine
end

