-- ==== Sys2Proof/Machine/Sha256.lean ====
section
/-! DEFINITION. The SHA-256 core (spec/43_sha256.md R170 to R182) and its five operations. -/

namespace Sys2Proof.Machine

/-- The round constants `K256` of R171, entries 0 to 15. -/
def shaK0 : List Word :=
  [0x428A2F98#32, 0x71374491#32, 0xB5C0FBCF#32, 0xE9B5DBA5#32,
   0x3956C25B#32, 0x59F111F1#32, 0x923F82A4#32, 0xAB1C5ED5#32,
   0xD807AA98#32, 0x12835B01#32, 0x243185BE#32, 0x550C7DC3#32,
   0x72BE5D74#32, 0x80DEB1FE#32, 0x9BDC06A7#32, 0xC19BF174#32]

/-- The round constants `K256` of R171, entries 16 to 31. -/
def shaK1 : List Word :=
  [0xE49B69C1#32, 0xEFBE4786#32, 0x0FC19DC6#32, 0x240CA1CC#32,
   0x2DE92C6F#32, 0x4A7484AA#32, 0x5CB0A9DC#32, 0x76F988DA#32,
   0x983E5152#32, 0xA831C66D#32, 0xB00327C8#32, 0xBF597FC7#32,
   0xC6E00BF3#32, 0xD5A79147#32, 0x06CA6351#32, 0x14292967#32]

/-- The round constants `K256` of R171, entries 32 to 47. -/
def shaK2 : List Word :=
  [0x27B70A85#32, 0x2E1B2138#32, 0x4D2C6DFC#32, 0x53380D13#32,
   0x650A7354#32, 0x766A0ABB#32, 0x81C2C92E#32, 0x92722C85#32,
   0xA2BFE8A1#32, 0xA81A664B#32, 0xC24B8B70#32, 0xC76C51A3#32,
   0xD192E819#32, 0xD6990624#32, 0xF40E3585#32, 0x106AA070#32]

/-- The round constants `K256` of R171, entries 48 to 63. -/
def shaK3 : List Word :=
  [0x19A4C116#32, 0x1E376C08#32, 0x2748774C#32, 0x34B0BCB5#32,
   0x391C0CB3#32, 0x4ED8AA4A#32, 0x5B9CCA4F#32, 0x682E6FF3#32,
   0x748F82EE#32, 0x78A5636F#32, 0x84C87814#32, 0x8CC70208#32,
   0x90BEFFFA#32, 0xA4506CEB#32, 0xBEF9A3F7#32, 0xC67178F2#32]

/-- The round constants `K256` of R171, 64 entries. -/
def shaK : List Word := shaK0 ++ shaK1 ++ shaK2 ++ shaK3

/-- `Ch(e, f, g)` (R172). -/
def shaCh (e f g : Word) : Word := (e &&& f) ^^^ (~~~e &&& g)

/-- `Maj(a, b, c)` (R172). -/
def shaMaj (a b c : Word) : Word := (a &&& b) ^^^ (a &&& c) ^^^ (b &&& c)

/-- `BSIG0(a)` (R172). -/
def shaBsig0 (a : Word) : Word := a.rotateRight 2 ^^^ a.rotateRight 13 ^^^ a.rotateRight 22

/-- `BSIG1(e)` (R172). -/
def shaBsig1 (e : Word) : Word := e.rotateRight 6 ^^^ e.rotateRight 11 ^^^ e.rotateRight 25

/-- `SSIG0(w)` (R172). -/
def shaSsig0 (w : Word) : Word := w.rotateRight 7 ^^^ w.rotateRight 18 ^^^ (w >>> 3)

/-- `SSIG1(w)` (R172). -/
def shaSsig1 (w : Word) : Word := w.rotateRight 17 ^^^ w.rotateRight 19 ^^^ (w >>> 10)

/-- The sixteen words of a block, by `from_be32` (R173). -/
def shaBlock (blk : List Byte) : List Word :=
  (List.range 16).map fun j => fromBe32 (slice blk (4 * j) (4 * j + 4))

/-- One word of the message schedule (R173): `ws` holds `W[0]` to `W[t-1]`, and `W[t]` is appended. -/
def shaExtend (ws : List Word) (t : Nat) : List Word :=
  ws ++ [ws.getD (t - 16) 0#32 + shaSsig0 (ws.getD (t - 15) 0#32) + ws.getD (t - 7) 0#32
    + shaSsig1 (ws.getD (t - 2) 0#32)]

/-- The message schedule `W[0..63]` (R173). -/
def shaSchedule (blk : List Byte) : List Word := (List.range' 16 48).foldl shaExtend (shaBlock blk)

/-- One round of the compression (R173): all eight words at once. -/
def shaStep (ws : List Word) (v : ShaWords) (t : Nat) : ShaWords :=
  let t1 := v.h7 + shaBsig1 v.h4 + shaCh v.h4 v.h5 v.h6 + shaK.getD t 0#32 + ws.getD t 0#32
  let t2 := shaBsig0 v.h0 + shaMaj v.h0 v.h1 v.h2
  ⟨t1 + t2, v.h0, v.h1, v.h2, v.h3 + t1, v.h4, v.h5, v.h6⟩

/-- `sha256_compress((H0..H7), Blk)` (R173). -/
def shaCompress (v : ShaWords) (blk : List Byte) : ShaWords :=
  let r := (List.range 64).foldl (shaStep (shaSchedule blk)) v
  ⟨v.h0 + r.h0, v.h1 + r.h1, v.h2 + r.h2, v.h3 + r.h3, v.h4 + r.h4, v.h5 + r.h5, v.h6 + r.h6, v.h7 + r.h7⟩

/-- The chaining value after absorbing whole blocks (R175). -/
def shaAbsorb (v : ShaWords) (bs : List Byte) : ShaWords := (blocks64 (bs.length / 64) bs).foldl shaCompress v

/-- What follows a message of `len` bytes (R174): 0x80, zeros up to 56 modulo 64, the bit length as `be64`. -/
def shaPadTail (len : Nat) : List Byte :=
  0x80#8 :: (rep 0x00#8 ((119 - len % 64) % 64) ++ be64 (BitVec.ofNat 64 (8 * len)))

/-- `sha256_pad(M)` (R174). -/
def shaPad (m : List Byte) : List Byte := m ++ shaPadTail m.length

/-- The initial chaining value (R175). -/
def shaInit : ShaWords :=
  ⟨0x6A09E667#32, 0xBB67AE85#32, 0x3C6EF372#32, 0xA54FF53A#32,
   0x510E527F#32, 0x9B05688C#32, 0x1F83D9AB#32, 0x5BE0CD19#32⟩

/-- The digest bytes of a chaining value (R70, R175). -/
def shaDigest (v : ShaWords) : List Byte :=
  be32 v.h0 ++ be32 v.h1 ++ be32 v.h2 ++ be32 v.h3 ++ be32 v.h4 ++ be32 v.h5 ++ be32 v.h6 ++ be32 v.h7

/-- `sha256(M)` (R175). -/
def sha256 (m : List Byte) : List Byte := shaDigest (shaAbsorb shaInit (shaPad m))

/-- Absorbing one byte (R177, last three lines). -/
def ShaUnit.absorb (u : ShaUnit) (b : Byte) : ShaUnit :=
  let buf := u.buf.set (u.len.toNat % 64) b (Nat.mod_lt _ (by decide))
  let len := u.len + 1#32
  if len.toNat % 64 = 0 then ⟨shaCompress u.words buf.toList, buf, len⟩ else ⟨u.words, buf, len⟩

/-- The bytes that finish the digest (R179, `Tail`): the meaningful part of `SHA_BUF` and the padding. -/
def ShaUnit.tail (u : ShaUnit) : List Byte := u.buf.toList.take (u.len.toNat % 64) ++ shaPadTail u.len.toNat

/-- The SHA-256 unit becomes `u`. -/
def State.setSha (s : State) (u : ShaUnit) : State := { s with sha := u }

/-- `VSHA <- v`. -/
def State.setVsha (s : State) (v : Bool) : State := { s with valid := { s.valid with vsha := v } }

/-- `SHA_BUF` after `SHA.FIN` is a free value (R179, U4). -/
def State.freeShaBuf (s : State) : State :=
  { s with sha := { s.sha with buf := Config.shaBufAfterFin s.env.drawn }, env := s.env.afterFree }

/-- The check of `VSHA` (R180). -/
def State.withVsha (s : State) (go : State → State) : State :=
  if s.valid.vsha then go s else s.raise .notInitialised 4#32

/-- The length limit (R180): `LengthLimit(4)` where `n` more bytes would take `SHA_LEN` above 2^24. -/
def State.withShaRoom (s : State) (n : Nat) (go : State → State) : State :=
  if Config.pbufBytes < s.sha.len.toNat + n then s.raise .lengthLimit 4#32 else go s

/-- `SHA.INIT` (R176). `SHA_BUF` is not cleared. -/
def execShaInit (s : State) : Host.Outcome State Fault Refusal :=
  .next (((s.setSha ⟨shaInit, s.sha.buf, 0#32⟩).setVsha true).complete)

/-- `SHA.UPDB #b` (R177). -/
def execShaUpdb (b : Byte) (s : State) : Host.Outcome State Fault Refusal :=
  .next (s.withVsha fun s => s.withShaRoom 1 fun s => (s.setSha (s.sha.absorb b)).complete)

/-- `SHA.UPDM` (R178). -/
def execShaUpdm (s : State) : Host.Outcome State Fault Refusal :=
  .next (s.withVsha fun s => s.withInput fun m => s.withShaRoom s.x.x1.toNat fun s =>
    (s.setSha (m.foldl ShaUnit.absorb s.sha)).complete)

/-- The unit with its digest finished (R179): `SHA_H0` to `SHA_H7` hold the digest words, `SHA_LEN` keeps its value. -/
def State.shaFinished (s : State) : State :=
  s.setSha { s.sha with words := shaAbsorb s.sha.words s.sha.tail }

/-- `SHA.FIN` (R179): it delivers the 32 digest bytes (R183). -/
def execShaFin (s : State) : Host.Outcome State Fault Refusal :=
  .next (s.withVsha fun s => s.withRange s.x.x3 32 fun s =>
    (((s.shaFinished.stored s.x.x3 (shaDigest s.shaFinished.sha.words)).setVsha false).freeShaBuf).complete)

/-- `SHA.CALC` (R181): it delivers the 32 digest bytes (R183); the whole input is read before they are written (R75). -/
def execShaCalc (s : State) : Host.Outcome State Fault Refusal :=
  .next (s.withInput fun m => s.withRange s.x.x3 32 fun s => (s.stored s.x.x3 (sha256 m)).complete)

end Sys2Proof.Machine
end

