-- ==== Sys2Proof/Machine/Crc.lean ====
section
/-! DEFINITION. The CRC-16 and CRC-32 generator (spec/41_crc.md R120 to R142) and its twelve operations. -/

namespace Sys2Proof.Machine

/-- One bit of `crc16_step`: shift left, XOR the polynomial 0x1021 on carry-out (R121). -/
def crc16Bit (c : Half) : Half := if c.msb then (c <<< 1) ^^^ 0x1021#16 else c <<< 1

/-- `crc16_step(c, b)` (R121). -/
def crc16Step (c : Half) (b : Byte) : Half :=
  crc16Bit (crc16Bit (crc16Bit (crc16Bit (crc16Bit (crc16Bit (crc16Bit (crc16Bit (c ^^^ (b.setWidth 16 <<< 8)))))))))

/-- `crc16(init, M)` (R122). -/
def crc16 (init : Half) (m : List Byte) : Half := m.foldl crc16Step init

/-- `crc16_ccitt_false(M)` (R122). -/
def crc16CcittFalse (m : List Byte) : Half := crc16 0xFFFF#16 m

/-- `crc16_xmodem(M)` (R122). -/
def crc16Xmodem (m : List Byte) : Half := crc16 0x0000#16 m

/-- One bit of `crc32_step`: shift right, XOR 0xEDB88320 on carry-out (R134). -/
def crc32Bit (c : Word) : Word := if c.getLsbD 0 then (c >>> 1) ^^^ 0xEDB88320#32 else c >>> 1

/-- `crc32_step(c, b)` (R134). -/
def crc32Step (c : Word) (b : Byte) : Word :=
  crc32Bit (crc32Bit (crc32Bit (crc32Bit (crc32Bit (crc32Bit (crc32Bit (crc32Bit (c ^^^ b.setWidth 32))))))))

/-- `crc32(init, M)` (R134): the remainder as it stands, no final XOR (R136). -/
def crc32 (init : Word) (m : List Byte) : Word := m.foldl crc32Step init

/-- `CRC16 <- c ; V16 <- 1`. -/
def State.crc16Init (s : State) (c : Half) : State := { s with crc16 := c, valid := { s.valid with v16 := true } }

/-- `CRC16 <- c`. -/
def State.setCrc16 (s : State) (c : Half) : State := { s with crc16 := c }

/-- `CRC32 <- c ; V32 <- 1`. -/
def State.crc32Init (s : State) (c : Word) : State := { s with crc32 := c, valid := { s.valid with v32 := true } }

/-- `CRC32 <- c`. -/
def State.setCrc32 (s : State) (c : Word) : State := { s with crc32 := c }

/-- The check of `V16` (R128). -/
def State.withV16 (s : State) (go : State → State) : State :=
  if s.valid.v16 then go s else s.raise .notInitialised 1#32

/-- The check of `V32` (R128). -/
def State.withV32 (s : State) (go : State → State) : State :=
  if s.valid.v32 then go s else s.raise .notInitialised 2#32

/-- `C16.INITF` (R126). -/
def execC16Initf (s : State) : Host.Outcome State Fault Refusal := .next (s.crc16Init 0xFFFF#16).complete

/-- `C16.INITX` (R127). -/
def execC16Initx (s : State) : Host.Outcome State Fault Refusal := .next (s.crc16Init 0x0000#16).complete

/-- `C16.UPDB #b` (R129). -/
def execC16Updb (b : Byte) (s : State) : Host.Outcome State Fault Refusal :=
  .next (s.withV16 fun s => (s.setCrc16 (crc16Step s.crc16 b)).complete)

/-- `C16.UPDM` (R130). -/
def execC16Updm (s : State) : Host.Outcome State Fault Refusal :=
  .next (s.withV16 fun s => s.withInput fun m => (s.setCrc16 (crc16 s.crc16 m)).complete)

/-- `C16.RD` (R131). -/
def execC16Rd (s : State) : Host.Outcome State Fault Refusal :=
  .next (s.withV16 fun s => (s.setX6 (s.crc16.setWidth 32)).complete)

/-- `C16.CALCF` (R132). -/
def execC16Calcf (s : State) : Host.Outcome State Fault Refusal :=
  .next (s.withInput fun m => (s.setX6 ((crc16CcittFalse m).setWidth 32)).complete)

/-- `C16.CALCX` (R133). -/
def execC16Calcx (s : State) : Host.Outcome State Fault Refusal :=
  .next (s.withInput fun m => (s.setX6 ((crc16Xmodem m).setWidth 32)).complete)

/-- `C32.INIT` (R137). -/
def execC32Init (s : State) : Host.Outcome State Fault Refusal := .next (s.crc32Init s.x.x2).complete

/-- `C32.UPDB #b` (R138). -/
def execC32Updb (b : Byte) (s : State) : Host.Outcome State Fault Refusal :=
  .next (s.withV32 fun s => (s.setCrc32 (crc32Step s.crc32 b)).complete)

/-- `C32.UPDM` (R139). -/
def execC32Updm (s : State) : Host.Outcome State Fault Refusal :=
  .next (s.withV32 fun s => s.withInput fun m => (s.setCrc32 (crc32 s.crc32 m)).complete)

/-- `C32.RD` (R140). -/
def execC32Rd (s : State) : Host.Outcome State Fault Refusal :=
  .next (s.withV32 fun s => (s.setX6 s.crc32).complete)

/-- `C32.CALC` (R141). -/
def execC32Calc (s : State) : Host.Outcome State Fault Refusal :=
  .next (s.withInput fun m => (s.setX6 (crc32 s.x.x2 m)).complete)

end Sys2Proof.Machine
end

