-- ==== Sys2Proof/Machine/Codec.lean ====
section
/-! DEFINITION. The frame codec (spec/46_codec.md R270 to R298): the three framings as functions of byte strings, the
operations that do not wait, and the pieces of `LP.DEC` and `SL.DEC` around their waits. -/

namespace Sys2Proof.Machine

/-! ### BL length-prefixed frame (R270 to R278) -/

/-- `lp_checksum(P)` (R271): the sum modulo 256 of every byte after the checksum byte. -/
def lpChecksum (p : List Byte) : Byte := sum8 (le16 (BitVec.ofNat 16 p.length)) + sum8 p

/-- `lp_frame(op, P)` (R272). -/
def lpFrame (op : Byte) (p : List Byte) : List Byte :=
  [op, lpChecksum p] ++ le16 (BitVec.ofNat 16 p.length) ++ p

/-- `LP.ENC #op` (R273). -/
def execLpEnc (op : Byte) (s : State) : Host.Outcome State Fault Refusal :=
  .next (s.inContext fun s => s.withInput fun p => s.withLength Config.len16Max fun s => s.txFinal (lpFrame op p))

/-- `"OK"` (R270). -/
def lpOk : List Byte := [0x4F#8, 0x4B#8]

/-- `"FL"` (R270). -/
def lpFl : List Byte := [0x46#8, 0x4C#8]

/-- `"PD"` (R270). -/
def lpPd : List Byte := [0x50#8, 0x44#8]

/-- `LP.DEC #d` up to its first wait (R275). -/
def State.lpDecStart (s : State) (data : Bool) : State := s.inContext fun s => s.suspend (.lpPrefix data 0)

/-- The end of `LP.DEC` (R275): `x[6] <- n ; x[7] <- polls`. -/
def State.lpFinish (s : State) (polls n : Nat) : State :=
  ((s.setX6 (BitVec.ofNat 32 n)).setX7 (BitVec.ofNat 32 polls)).complete

/-- The prefix `h` has been taken (R275, R276, R278). -/
def State.lpPrefixBytes (s : State) (data : Bool) (polls : Nat) (h : List Byte) : State :=
  if h = lpOk then (if data then s.suspend (.lpLen polls) else s.lpFinish polls 0)
  else if h = lpFl then s.raise .protocolStatus 0x4C46#32
  else if h = lpPd then
    (if polls = Config.lpPdPolls then s.raise .pendingExhausted (BitVec.ofNat 32 polls)
      else s.suspend (.lpPoll data (polls + 1)))
  else s.raise .protocolFraming (framingInfo 2#16 (fromLe16 h))

/-- The two prefix bytes are there (R275). -/
def State.lpPrefixReady (s : State) (data : Bool) (polls : Nat) : State :=
  (s.rxDrop 2).lpPrefixBytes data polls (s.rxq.take 2)

/-- The `n` data bytes are there (R275). -/
def State.lpDataReady (s : State) (polls n : Nat) : State :=
  (s.rxDrop n).memWrite s.x.x3 (s.rxq.take n) (fun t => t.raise .bufferRange t.x.x3) fun t => t.lpFinish polls n

/-- The two length bytes are there (R275, R277). With a length of 0 there is nothing to wait for: zero bytes are always
available (R237 says so of its own `RxTake`). -/
def State.lpLenReady (s : State) (polls : Nat) : State :=
  (s.rxDrop 2).withRange s.x.x3 (fromLe16 (s.rxq.take 2)).toNat fun t =>
    t.suspendUnless ((fromLe16 (s.rxq.take 2)).toNat = 0) (.lpData polls (fromLe16 (s.rxq.take 2)).toNat)
      fun t => t.lpDataReady polls 0

/-! ### ESP SLIP frame (R280 to R290) -/

/-- `slip_escape(X)` (R281). -/
def slipEscape (x : List Byte) : List Byte :=
  x.flatMap fun b => if b = 0xC0#8 then [0xDB#8, 0xDC#8] else if b = 0xDB#8 then [0xDB#8, 0xDD#8] else [b]

/-- `slip_encode(X)` (R281). -/
def slipEncode (x : List Byte) : List Byte := [0xC0#8] ++ slipEscape x ++ [0xC0#8]

/-- The result of `slip_scan` (R282). -/
inductive SlipScan where
  /-- no complete frame yet -/
  | incomplete
  /-- a decoded frame and the count of bytes used -/
  | frame (f : List Byte) (used : Nat)
  /-- a bad escape: the offending byte and the count of bytes used -/
  | error (b : Byte) (used : Nat)
deriving DecidableEq, Repr

/-- The loop of `slip_scan` (R282) after the opening `C0`: `f` decoded so far, `used` bytes used so far. -/
def slipBody (f : List Byte) (used : Nat) : List Byte → SlipScan
  | [] => .incomplete
  | b :: rest =>
    if b = 0xC0#8 then .frame f (used + 1)
    else if b = 0xDB#8 then
      match rest with
      | [] => .incomplete
      | e :: rest' =>
        if e = 0xDC#8 then slipBody (f ++ [0xC0#8]) (used + 2) rest'
        else if e = 0xDD#8 then slipBody (f ++ [0xDB#8]) (used + 2) rest'
        else .error e (used + 2)
    else slipBody (f ++ [b]) (used + 1) rest

/-- `slip_scan` (R282): bytes before the first `C0` are skipped; `used` counts them. -/
def slipScanFrom (used : Nat) : List Byte → SlipScan
  | [] => .incomplete
  | b :: rest => if b = 0xC0#8 then slipBody [] (used + 1) rest else slipScanFrom (used + 1) rest

/-- `slip_scan(S)` (R282). -/
def slipScan (s : List Byte) : SlipScan := slipScanFrom 0 s

/-- `slip_receive` once `slip_scan(RXQ)` is not `Incomplete` (R282): the bytes used are removed; `frame` goes on with the
decoded frame, `fail` raises `ProtocolFraming`, reason 1. -/
def State.slipReceive (s : State) (wait : State) (fail : State → StatusCode → Word → State)
    (frame : State → List Byte → State) : State :=
  match slipScan s.rxq with
  | .incomplete => wait
  | .frame f c => frame (s.rxDrop c) f
  | .error b c => fail (s.rxDrop c) .protocolFraming (framingInfo 1#16 (b.setWidth 16))

/-- `SL.ENC` (R283). -/
def execSlEnc (s : State) : Host.Outcome State Fault Refusal :=
  .next (s.inContext fun s => s.withInput fun x => s.txFinal (slipEncode x))

/-- `SL.DEC` once a frame or a bad escape is there (R284). -/
def State.slDecReady (s : State) : State :=
  s.slipReceive (s.suspend .slDec) State.raise fun t f =>
    t.memWrite t.x.x3 f (fun t => t.raise .bufferRange t.x.x3) fun t =>
      (t.setX6 (BitVec.ofNat 32 f.length)).complete

/-- `SL.DEC` up to its wait (R284), or to its end where a complete frame, or a bad escape, is already in `RXQ` ("returned
without waiting"). -/
def State.slDecStart (s : State) : State :=
  s.inContext fun s => s.suspendUnless (slipScan s.rxq ≠ .incomplete) .slDec State.slDecReady

/-- `esp_command(op, D, chk)` (R286). -/
def espCommand (op : Byte) (d : List Byte) (chk : Word) : List Byte :=
  [0x00#8, op] ++ le16 (BitVec.ofNat 16 d.length) ++ le32 chk ++ d

/-- `SL.CMD #op` (R288). -/
def execSlCmd (op : Byte) (s : State) : Host.Outcome State Fault Refusal :=
  .next (s.inContext fun s => s.withInput fun d => s.withLength Config.len16Max fun s =>
    s.txFinal (slipEncode (espCommand op d s.x.x2)))

/-- The result of `esp_response` (R289). -/
inductive EspResponse where
  /-- a fault of the framing or of the status bytes, with its information word -/
  | bad (c : StatusCode) (info : Word)
  /-- the `value` field and the data -/
  | good (value : Word) (data : List Byte)
deriving DecidableEq, Repr

/-- `esp_response(F, op)` (R289): the checks in their order. -/
def espResponse (f : List Byte) (op : Byte) : EspResponse :=
  if f.length < 10 then .bad .protocolFraming (framingInfo 3#16 (BitVec.ofNat 16 f.length))
  else if f.getD 0 0#8 ≠ 0x01#8 then .bad .protocolFraming (framingInfo 4#16 ((f.getD 0 0#8).setWidth 16))
  else if f.getD 1 0#8 ≠ op then .bad .protocolFraming (framingInfo 5#16 ((f.getD 1 0#8).setWidth 16))
  else if (fromLe16 (slice f 2 4)).toNat ≠ f.length - 8 then .bad .protocolFraming (framingInfo 6#16 (fromLe16 (slice f 2 4)))
  else if f.getD (f.length - 2) 0#8 ≠ 0#8 then
    .bad .protocolStatus ((fromLe16 (slice f (f.length - 2) f.length)).setWidth 32)
  else .good (fromLe32 (slice f 4 8)) (slice f 8 (f.length - 2))

/-- `SL.RSP #op` (R290). -/
def execSlRsp (op : Byte) (s : State) : Host.Outcome State Fault Refusal :=
  .next (s.withInput fun f =>
    match espResponse f op with
    | .bad c info => s.raise c info
    | .good value d => ((s.setX6 value).setX7 (BitVec.ofNat 32 d.length)).complete)

/-- The XOR checksum seeded with 0xEF (R287). -/
def espXsum (x : List Byte) : Byte := x.foldl (· ^^^ ·) 0xEF#8

/-- `SL.XSUM` (R287). -/
def execSlXsum (s : State) : Host.Outcome State Fault Refusal :=
  .next (s.withInput fun x => (s.setX6 ((espXsum x).setWidth 32)).complete)

/-! ### WM 0x21 frame (R295 to R298) -/

/-- The body of a WM frame: `le32(cmd) ++ Q` (R295). -/
def w21Body (cmd : Word) (q : List Byte) : List Byte := le32 cmd ++ q

/-- `w21_frame(cmd, Q)` (R295). -/
def w21Frame (cmd : Word) (q : List Byte) : List Byte :=
  [0x21#8] ++ le16 (BitVec.ofNat 16 ((w21Body cmd q).length + 2)) ++ le16 (crc16CcittFalse (w21Body cmd q))
    ++ w21Body cmd q

/-- `W21.ENC` (R297). -/
def execW21Enc (s : State) : Host.Outcome State Fault Refusal :=
  .next (s.inContext fun s => s.withInput fun q => s.withLength Config.w21ParamMax fun s =>
    s.txFinal (w21Frame s.x.x2 q))

/-- The checks of `W21.CHK` on the candidate `b`, in their order (R298): the information word of the first that fails. -/
def w21Check (b : List Byte) : Option Word :=
  if b.length < 9 ∨ 65538 < b.length then some (framingInfo 7#16 (BitVec.ofNat 16 b.length))
  else if b.getD 0 0#8 ≠ 0x21#8 then some (framingInfo 8#16 ((b.getD 0 0#8).setWidth 16))
  else if (fromLe16 (slice b 1 3)).toNat ≠ b.length - 3 then some (framingInfo 9#16 (fromLe16 (slice b 1 3)))
  else if fromLe16 (slice b 3 5) ≠ crc16CcittFalse (b.drop 5) then some (framingInfo 10#16 (crc16CcittFalse (b.drop 5)))
  else none

/-- `W21.CHK` (R298). -/
def execW21Chk (s : State) : Host.Outcome State Fault Refusal :=
  .next (s.withInput fun b =>
    match w21Check b with
    | some info => s.raise .protocolFraming info
    | none => ((s.setX6 (fromLe32 (slice b 5 9))).setX7 (BitVec.ofNat 32 (b.length - 9))).complete)

end Sys2Proof.Machine
end

