-- ==== Sys2Proof/Machine/Baud.lean ====
section
/-! DEFINITION. UART baud-rate negotiation (spec/45_baud.md R230 to R250): `BR.SET`, and the pieces of the three
negotiations between their suspension points. -/

namespace Sys2Proof.Machine

/-- `BR.SET` (R234). -/
def execBrSet (s : State) : Host.Outcome State Fault Refusal :=
  .next (s.inContext fun s => s.withRate fun s => (s.setBaud s.x.x2).complete)

/-- `BR_STAT.STATE <- v`. -/
def State.brSetState (s : State) (v : BrState) : State := { s with brStat := { s.brStat with state := v } }

/-- `BR_STAT.ATTEMPT <- n`. -/
def State.brSetAttempt (s : State) (n : BitVec 5) : State := { s with brStat := { s.brStat with attempt := n } }

/-- `BR_TARGET <- x[2] ; BR_STAT <- 0` (R237, R244, R246). -/
def State.brLatch (s : State) : State := { s with brTarget := s.x.x2, brStat := ⟨.idle, 0#5⟩ }

/-- `fail F(i)` (R239): `BR_STAT.STATE <- FAILED ; raise F(i)`. -/
def State.brFail (s : State) (c : StatusCode) (info : Word) : State := (s.brSetState .failed).raise c info

/-- `fail` where the checkpoint sees the cancel flag. -/
def State.brCancelled (s : State) : State := s.brFail .cancelled 0#32

/-- `fail` where a `write` fails. -/
def State.brWriteFailed (s : State) : State := s.brFail .transportWrite 0#32

/-! ### BK (R236 to R238) -/

/-- `LIMIT`, the most attempts (R238). -/
def State.brLimit (s : State) : Nat := max 1 (Config.brRetry + s.params.brFirstExtra.toNat)

/-- The head of the attempt loop up to `Delay(T_BK_FLUSH)` (R238). -/
def State.bkAttempt (s : State) (cmd : List Byte) : State :=
  s.checkpoint State.brCancelled fun s =>
    (s.brSetAttempt (s.brStat.attempt + 1#5)).txPut cmd State.brWriteFailed fun s =>
      (s.brSetState .cmdSent).suspend (.bkFlush cmd)

/-- `BR.NEG.BK` up to its first suspension point (R237). -/
def State.bkStart (s : State) : State :=
  s.inContext fun s => s.withInput fun cmd => s.withRange s.x.x3 s.x.x4.toNat fun s => s.withRate fun s =>
    s.brLatch.bkAttempt cmd

/-- The response is there (R238). The range was checked before the loop; `MemWrite` checks it again. -/
def State.bkRespReady (s : State) : State :=
  (s.rxDrop s.x.x4.toNat).memWrite s.x.x3 (s.rxq.take s.x.x4.toNat) (fun t => t.brFail .bufferRange t.x.x3)
    fun t => ((t.brSetState .done).setX6 (t.brStat.attempt.setWidth 32)).complete

/-- After `Delay(T_BK_FLUSH)` (R238): the transport at the target rate, the response awaited. A response of no bytes is there at
once: "zero bytes are always available" (R237). -/
def State.bkFlushed (s : State) (cmd : List Byte) : State :=
  ((s.setBaud s.brTarget).brSetState .switched).suspendUnless (s.x.x4 = 0#32) (.bkResp cmd) State.bkRespReady

/-- The response did not come (R238): revert, then the next attempt or the end. -/
def State.bkRespTimeout (s : State) (cmd : List Byte) : State :=
  let t := (s.setBaud Config.baudSafe).brSetState .reverted
  if t.brLimit ≤ t.brStat.attempt.toNat then t.brFail .baudNegotiationFailed (t.brStat.attempt.setWidth 32)
  else t.bkAttempt cmd

/-! ### ESP (R243, R244) -/

/-- The second word of CHANGE_BAUDRATE (R243): the old rate for a stub, zero for the ROM. -/
def State.espSecond (s : State) : Word := if s.ctrl.stub then s.baudCur else 0#32

/-- The CHANGE_BAUDRATE command on the wire (R243). -/
def espBaudCommand (new second : Word) : List Byte :=
  slipEncode (espCommand 0x0F#8 (le32 new ++ le32 second) 0#32)

/-- `BR.NEG.ESP` up to its wait (R244). -/
def State.espStart (s : State) : State :=
  s.inContext fun s => s.withRate fun s =>
    (s.brLatch.brSetAttempt 1#5).txPut (espBaudCommand s.x.x2 s.espSecond) State.brWriteFailed fun s =>
      (s.brSetState .cmdSent).suspend .espResp

/-- `BR.NEG.ESP` with the response frame `f` taken (R244). -/
def State.espFrame (s : State) (f : List Byte) : State :=
  match espResponse f 0x0F#8 with
  | .bad c info => s.brFail c info
  | .good value _ =>
    s.memWrite s.x.x3 f (fun t => t.brFail .bufferRange t.x.x3) fun t =>
      ((((t.setBaud t.x.x2).brSetState .done).setX6 value).setX7 (BitVec.ofNat 32 f.length)).complete

/-- `BR.NEG.ESP` once a frame or a bad escape is there (R244, R282). -/
def State.espReady (s : State) : State := s.slipReceive (s.suspend .espResp) State.brFail State.espFrame

/-! ### WM (R246) -/

/-- `BR.NEG.WM` up to `Delay(T_WM_SWITCH)` (R246). -/
def State.wmStart (s : State) : State :=
  s.inContext fun s => s.withRate fun s =>
    (s.brLatch.brSetAttempt 1#5).txPut (w21Frame 0x31#32 (le32 s.x.x2)) State.brWriteFailed fun s =>
      (s.brSetState .cmdSent).suspend .wmSwitch

/-- After `Delay(T_WM_SWITCH)` (R246). -/
def State.wmSwitched (s : State) : State := ((s.setBaud s.x.x2).brSetState .done).complete

end Sys2Proof.Machine
end

