-- ==== Sys2Proof/Machine/Context.lean ====
section
/-! DEFINITION. The context and transport operations that do not wait (spec/40_context_transport.md R101, R102, R103,
R106), and what `RX.RAW` does around its wait (R105). -/

namespace Sys2Proof.Machine

/-- The per-operation state back at its values, before `connect()` (R101, R53). `disconnect()` of an open context has no
effect on the block's state. -/
def State.contextReset (s : State) : State :=
  { s with
    ctrl := { s.ctrl with cancel := false, stub := false, fault := false, opened := false }
    baudCur := Config.baudSafe
    xmCfg := ⟨Config.xmPadReset, Config.xmMaxrReset⟩
    xmStat := ⟨.idle, false, 0#8, 0#8⟩
    xmBase := 0#32
    xmTotal := 0#32
    xmK := 0#32
    xmSent := 0#32
    brStat := ⟨.idle, 0#5⟩
    brTarget := 0#32
    rxq := []
    evt := [] }

/-- The environment has answered a `connect()` (R339). -/
def State.connectDrawn (s : State) : State := { s with env := s.env.afterConnect }

/-- `CTRL.OPEN <- b`. -/
def State.setOpened (s : State) (b : Bool) : State := { s with ctrl := { s.ctrl with opened := b } }

/-- `RXQ <- []`. -/
def State.rxClear (s : State) : State := { s with rxq := [] }

/-- `CTX.OPEN` (R101). -/
def execCtxOpen (s : State) : Host.Outcome State Fault Refusal :=
  .next (if s.env.connectFails then s.contextReset.connectDrawn.raise .transportOpen 0#32
    else (s.contextReset.connectDrawn.setOpened true).complete)

/-- `CTX.CLOSE` (R102). -/
def execCtxClose (s : State) : Host.Outcome State Fault Refusal := .next ((s.setOpened false).rxClear).complete

/-- `RX.DRAIN` (R103). -/
def execRxDrain (s : State) : Host.Outcome State Fault Refusal :=
  .next (s.inContext fun s => ((s.setX6 (BitVec.ofNat 32 s.rxq.length)).rxClear).complete)

/-- `TX.RAW` (R106). -/
def execTxRaw (s : State) : Host.Outcome State Fault Refusal :=
  .next (s.inContext fun s => s.withInput fun b => s.txFinal b)

/-- `RX.RAW` once the bytes are there (R105): it stores exactly the `x[1]` bytes asked for (R299). The range was checked before
the wait; `MemWrite` checks it again. -/
def State.rxRawReady (s : State) : State :=
  (s.rxDrop s.x.x1.toNat).memWrite s.x.x3 (s.rxq.take s.x.x1.toNat) (fun t => t.raise .bufferRange t.x.x3)
    fun t => (t.setX6 t.x.x1).complete

/-- `RX.RAW` up to its wait (R105), or to its end where `RXQ` already holds `x[1]` bytes ("completes without waiting"), as it
always does for `x[1] = 0` ("completes at once"). -/
def State.rxRawStart (s : State) : State :=
  s.inContext fun s => s.withRange s.x.x3 s.x.x1.toNat fun s =>
    s.suspendUnless (s.x.x1.toNat ≤ s.rxq.length) .rxRaw State.rxRawReady

end Sys2Proof.Machine
end

