-- ==== Sys2Proof/Machine/Xmodem.lean ====
section
/-! DEFINITION. The XMODEM-1K sender (spec/44_xmodem.md R190 to R206): the two configuration operations, the packet, and
the pieces of `XM.SEND` between its suspension points. The meaning of `XM.SEND` itself is in Machine/Waits.lean. -/

namespace Sys2Proof.Machine

/-- `XM.PAD #p` (R194). -/
def execXmPad (p : Byte) (s : State) : Host.Outcome State Fault Refusal :=
  .next { s with xmCfg := { s.xmCfg with pad := p } }.complete

/-- `XM.MAXR #m` (R195). -/
def execXmMaxr (m : Byte) (s : State) : Host.Outcome State Fault Refusal :=
  .next { s with xmCfg := { s.xmCfg with maxr := m } }.complete

/-- The control bytes of R192: `'C'`. -/
def xmC : Byte := 0x43#8

/-- `NAK` (R192). -/
def xmNak : Byte := 0x15#8

/-- `STX` (R192). -/
def xmStx : Byte := 0x02#8

/-- `ACK` (R192). -/
def xmAck : Byte := 0x06#8

/-- `CAN` (R192). -/
def xmCan : Byte := 0x18#8

/-- `EOT` (R192). -/
def xmEotByte : Byte := 0x04#8

/-- `ceil(total / 1024)`, the number of packets of a payload (R196). -/
def xmPackets (total : Nat) : Nat := (total + (Config.xmBlock - 1)) / Config.xmBlock

/-- `xm_data(k)` of a payload (R196): 1 024 bytes, the last packet padded. -/
def xmData (payload : List Byte) (pad : Byte) (k : Nat) : List Byte :=
  let d := slice payload (Config.xmBlock * k) (Config.xmBlock * (k + 1))
  d ++ rep pad (Config.xmBlock - d.length)

/-- `xm_check(mode, D)` (R197). -/
def xmCheck (mode : Bool) (d : List Byte) : List Byte := if mode then be16 (crc16Xmodem d) else [sum8 d]

/-- The block number of packet index `k`: `(k + 1) mod 256` (R197). -/
def xmBlk (k : Nat) : Byte := BitVec.ofNat 8 (k + 1)

/-- `xm_packet(k, mode)` (R197). -/
def xmPacket (payload : List Byte) (pad : Byte) (mode : Bool) (k : Nat) : List Byte :=
  [xmStx, xmBlk k, 255#8 - xmBlk k] ++ xmData payload pad k ++ xmCheck mode (xmData payload pad k)

/-- The payload being sent: `MemRead(XM_BASE, XM_TOTAL)` (R196). `PBUF` does not change while the block is busy (R376). -/
def State.xmPayload (s : State) : List Byte := s.pbuf.bytes s.xmBase.toNat s.xmTotal.toNat

/-- `LIMIT`, the most transmissions of one packet or of the `EOT` (R201). -/
def State.xmLimit (s : State) : Nat := max 1 (s.xmCfg.maxr.toNat + s.params.xmFirstExtra.toNat)

/-- `XM_STAT.STATE <- v`. -/
def State.xmSetState (s : State) (v : XmState) : State := { s with xmStat := { s.xmStat with state := v } }

/-- `XM_STAT.MODE <- m`. -/
def State.xmSetMode (s : State) (m : Bool) : State := { s with xmStat := { s.xmStat with mode := m } }

/-- `XM_STAT.BLK <- b`. -/
def State.xmSetBlk (s : State) (b : Byte) : State := { s with xmStat := { s.xmStat with blk := b } }

/-- `XM_STAT.RETRY <- r`. -/
def State.xmSetRetry (s : State) (r : Byte) : State := { s with xmStat := { s.xmStat with retry := r } }

/-- `abort F(i)` (R206): `XM_STAT.STATE <- ABORTED ; raise F(i)`. -/
def State.xmAbort (s : State) (c : StatusCode) (info : Word) : State := (s.xmSetState .aborted).raise c info

/-- `abort` where a checkpoint sees the cancel flag. -/
def State.xmCancelled (s : State) : State := s.xmAbort .cancelled 0#32

/-- `abort` where a `write` fails. -/
def State.xmWriteFailed (s : State) : State := s.xmAbort .transportWrite 0#32

/-- One transmission of packet `XM_K` (R199, the body of `repeat` up to the wait). -/
def State.xmTransmitPacket (s : State) : State :=
  s.checkpoint State.xmCancelled fun s =>
    (s.xmSetBlk (xmBlk s.xmK.toNat)).txPut (xmPacket s.xmPayload s.xmCfg.pad s.xmStat.mode s.xmK.toNat)
      State.xmWriteFailed fun s => s.suspend .xmPacket

/-- One transmission of the `EOT` (R204, the body of `repeat` up to the wait). -/
def State.xmTransmitEot (s : State) : State :=
  s.checkpoint State.xmCancelled fun s => s.txPut [xmEotByte] State.xmWriteFailed fun s => s.suspend .xmEot

/-- The head of the send loop (R199): the next packet, or, when all are acknowledged, the `EOT` phase (R204). -/
def State.xmNext (s : State) : State :=
  if s.xmK.toNat < xmPackets s.xmTotal.toNat then (s.xmSetRetry 0#8).xmTransmitPacket
  else ((s.xmSetState .eot).xmSetRetry 0#8).xmTransmitEot

/-- The latch of `XM.SEND` (R198). -/
def State.xmLatch (s : State) : State :=
  { s with
    xmBase := s.x.x0
    xmTotal := s.x.x1
    xmK := 0#32
    xmSent := 0#32
    xmStat := ⟨.waitInit, false, 0#8, 0#8⟩ }

/-- `XM.SEND` up to its first wait (R198). -/
def State.xmSendStart (s : State) : State :=
  s.inContext fun s => s.withInput fun _ => s.xmLatch.suspend .xmInit

/-- Initiation with the byte `b` read (R193). -/
def State.xmInitByte (s : State) (b : Byte) : State :=
  if b = xmC then ((s.xmSetMode true).xmSetState .send).xmNext
  else if b = xmNak then ((s.xmSetMode false).xmSetState .send).xmNext
  else s.xmAbort .xmodemInitiationFailed (b.setWidth 32)

/-- Initiation timed out (R193). -/
def State.xmInitTimeout (s : State) : State := s.xmAbort .xmodemInitiationFailed 0x100#32

/-- A failed transmission (R200, R201): retransmit by `again`, or abort where the limit is reached. -/
def State.xmRetry (s : State) (again : State → State) : State :=
  if s.xmLimit ≤ s.xmStat.retry.toNat + 1 then s.xmAbort .xmodemRetriesExhausted s.xmK
  else again (s.xmSetRetry (s.xmStat.retry + 1#8))

/-- `XM_K <- XM_K + 1 ; XM_SENT <- min(XM_K * 1024, XM_TOTAL)` (R199). -/
def State.xmAdvance (s : State) : State :=
  { s with
    xmK := s.xmK + 1#32
    xmSent := BitVec.ofNat 32 (min ((s.xmK.toNat + 1) * Config.xmBlock) s.xmTotal.toNat) }

/-- The progress event of the packet just acknowledged (R203). -/
def State.xmProgress (s : State) : State :=
  s.emit (.progress s.xmSent s.xmTotal s.xmK (BitVec.ofNat 32 ((s.xmK.toNat - 1) * Config.xmBlock)))

/-- The response `r` to a packet (R199, R200, R202). -/
def State.xmPacketByte (s : State) (r : Byte) : State :=
  if r = xmAck then s.xmAdvance.xmProgress.xmNext
  else if r = xmCan then s.xmAbort .xmodemCancelled s.xmK
  else s.xmRetry State.xmTransmitPacket

/-- No response to a packet (R199). -/
def State.xmPacketTimeout (s : State) : State := s.xmRetry State.xmTransmitPacket

/-- The end of a transfer (R198): `DONE`, `x[6]` the packet count, `x[7]` the mode. -/
def State.xmFinish (s : State) : State :=
  (((s.xmSetState .done).setX6 (BitVec.ofNat 32 (xmPackets s.xmTotal.toNat))).setX7
    ((BitVec.ofBool s.xmStat.mode).setWidth 32)).complete

/-- The response `r` to an `EOT` (R204, R202). -/
def State.xmEotResponse (s : State) (r : Byte) : State :=
  if r = xmAck then s.xmFinish
  else if r = xmCan then s.xmAbort .xmodemCancelled s.xmK
  else s.xmRetry State.xmTransmitEot

/-- No response to an `EOT` (R204). -/
def State.xmEotTimeout (s : State) : State := s.xmRetry State.xmTransmitEot

end Sys2Proof.Machine
end

