-- ==== Sys2Proof/Machine/Engine.lean ====
section
/-! DEFINITION. Suspension and resumption (spec/10_state.md R25, spec/60_exceptions.md R338, R351): when a suspended
operation may go on, what it does then, what `Timeout` does, and the block's own run up to the next point where it must
wait or another agent comes first. -/

namespace Sys2Proof.Machine

/-- The condition of the wait holds (R338, R351); a `Delay` is over as soon as the block moves (R9). -/
def State.contReady (s : State) : Cont → Bool
  | .rxRaw => s.x.x1.toNat ≤ s.rxq.length
  | .xmInit | .xmPacket | .xmEot => !s.rxq.isEmpty
  | .bkFlush _ | .wmSwitch | .lpPoll _ _ => true
  | .bkResp _ => s.x.x4.toNat ≤ s.rxq.length
  | .espResp | .slDec => slipScan s.rxq ≠ .incomplete
  | .lpPrefix _ _ | .lpLen _ => 2 ≤ s.rxq.length
  | .lpData _ n => n ≤ s.rxq.length

/-- One byte is taken from `RXQ` (R14, `RxByte`); `wait` goes on where there is none. -/
def State.rxByte (s : State) (wait : State) (go : State → Byte → State) : State :=
  match s.rxq with
  | [] => wait
  | b :: _ => go (s.rxDrop 1) b

/-- The operation goes on from its suspension point, the condition of its wait being met (R25). -/
def State.resume (s : State) : Cont → State
  | .rxRaw => s.rxRawReady
  | .xmInit => s.rxByte (s.suspend .xmInit) State.xmInitByte
  | .xmPacket => s.rxByte (s.suspend .xmPacket) State.xmPacketByte
  | .xmEot => s.rxByte (s.suspend .xmEot) State.xmEotResponse
  | .bkFlush cmd => s.bkFlushed cmd
  | .bkResp _ => s.bkRespReady
  | .espResp => s.espReady
  | .wmSwitch => s.wmSwitched
  | .lpPrefix d polls => s.lpPrefixReady d polls
  | .lpPoll d polls => s.suspend (.lpPrefix d polls)
  | .lpLen polls => s.lpLenReady polls
  | .lpData polls n => s.lpDataReady polls n
  | .slDec => s.slDecReady

/-- The wait ends by `Timeout`, nothing consumed (R338): `RX.RAW` then reports `Timeout` and stores nothing (R105, R299). A
`Delay` has none. -/
def State.expire (s : State) : Cont → State
  | .rxRaw => s.raise .timeout s.x.x1
  | .xmInit => s.xmInitTimeout
  | .xmPacket => s.xmPacketTimeout
  | .xmEot => s.xmEotTimeout
  | .bkFlush cmd => s.suspend (.bkFlush cmd)
  | .bkResp cmd => s.bkRespTimeout cmd
  | .espResp => s.brFail .timeout 0#32
  | .wmSwitch => s.suspend .wmSwitch
  | .lpPrefix _ _ => s.raise .timeout 2#32
  | .lpPoll d polls => s.suspend (.lpPoll d polls)
  | .lpLen _ => s.raise .timeout 2#32
  | .lpData _ n => s.raise .timeout (BitVec.ofNat 32 n)
  | .slDec => s.raise .timeout 0#32

/-- The block can go on by itself: it is suspended at a point whose condition holds. -/
def State.canGo (s : State) : Bool :=
  match s.cont with
  | none => false
  | some c => s.contReady c

/-- The continuation is taken up (R25). -/
def State.uncont (s : State) : State := { s with cont := none }

/-- The block goes on from its suspension point to the next, or to the end of the operation. -/
def State.goOn (s : State) : State :=
  match s.cont with
  | none => s
  | some c => s.uncont.resume c

/-- The block's own run, at most `n` suspension points long. -/
def State.runOn : Nat → State → State
  | 0, s => s
  | n + 1, s => if s.canGo then State.runOn n s.goOn else s

/-- How many suspension points the schedule lets the block pass before another agent comes: the number that a `hold` at its
head gives; without one, none, and the block passes every point whose condition holds. -/
def holdOf : List Turn → Option Nat
  | .hold passes :: _ => some passes
  | _ => none

/-- The block's own run: from suspension point to suspension point until it must wait, its operation has ended, or it has
passed as many as the schedule lets it. DESIGN CHOICE (notes/assumptions/5.md): R25 says that an operation MAY be suspended
at a point that it has entered though its condition holds; both readings are schedules, the block goes past such a point where
no `hold` comes next and rests at any such point that a `hold` names. Where a rule itself says that there is no waiting, the
point is not entered at all (`State.suspendUnless`). The bound `|RXQ| + 4` is enough (every wait that is met consumes a
byte, but for at most four; notes/assumptions/17.md). -/
def State.settle (s : State) : State :=
  match holdOf s.turns with
  | none => State.runOn (s.rxq.length + 4) s
  | some passes => State.runOn passes s

/-- The environment raises `Timeout` (R338): it ends a pending wait whose condition does not hold; in every other state
the environment cannot raise it, and nothing happens. -/
def State.timeoutRaised (s : State) : State :=
  match s.cont with
  | none => s
  | some c => if s.contReady c then s else s.uncont.expire c

end Sys2Proof.Machine
end

