-- ==== Sys2Proof/Machine/Waits.lean ====
section
/-! DEFINITION. The meanings of the seven operations that have suspension points (spec/10_state.md R25): each starts as
its rule says and then runs on to its end, to the first wait that is not met, or to the point where the schedule makes it
rest. -/

namespace Sys2Proof.Machine

/-- `RX.RAW` (R105). It ends at once or waits for bytes that are not there, so the block's own run adds nothing. -/
def execRxRaw (s : State) : Host.Outcome State Fault Refusal := .next s.rxRawStart

/-- `XM.SEND` (R198, with R193, R199 to R206). -/
def execXmSend (s : State) : Host.Outcome State Fault Refusal := .next s.xmSendStart.settle

/-- `BR.NEG.BK` (R237, R238). -/
def execBrNegBk (s : State) : Host.Outcome State Fault Refusal := .next s.bkStart.settle

/-- `BR.NEG.ESP` (R243, R244). -/
def execBrNegEsp (s : State) : Host.Outcome State Fault Refusal := .next s.espStart.settle

/-- `BR.NEG.WM` (R246). -/
def execBrNegWm (s : State) : Host.Outcome State Fault Refusal := .next s.wmStart.settle

/-- `LP.DEC #d` (R275); `DATA` is bit 0 of the immediate (R81). -/
def execLpDec (imm : Byte) (s : State) : Host.Outcome State Fault Refusal :=
  .next (s.lpDecStart (imm.getLsbD 0)).settle

/-- `SL.DEC` (R284). It ends at once or waits for a frame that is not there, so the block's own run adds nothing. -/
def execSlDec (s : State) : Host.Outcome State Fault Refusal := .next s.slDecStart

end Sys2Proof.Machine
end

