-- ==== Sys2Proof/Machine/Dispatch.lean ====
section
/-! DEFINITION. The meaning of every instruction of spec/30_encoding.md R84: one call per constructor. -/

namespace Sys2Proof.Machine

def exec (i : Instr) (s : State) : Host.Outcome State Fault Refusal :=
  match i with
  | .ctxOpen => Sys2Proof.Machine.execCtxOpen s
  | .ctxClose => Sys2Proof.Machine.execCtxClose s
  | .rxDrain => Sys2Proof.Machine.execRxDrain s
  | .txRaw => Sys2Proof.Machine.execTxRaw s
  | .rxRaw => Sys2Proof.Machine.execRxRaw s
  | .c16Initf => Sys2Proof.Machine.execC16Initf s
  | .c16Initx => Sys2Proof.Machine.execC16Initx s
  | .c16Updb imm => Sys2Proof.Machine.execC16Updb imm s
  | .c16Updm => Sys2Proof.Machine.execC16Updm s
  | .c16Rd => Sys2Proof.Machine.execC16Rd s
  | .c16Calcf => Sys2Proof.Machine.execC16Calcf s
  | .c16Calcx => Sys2Proof.Machine.execC16Calcx s
  | .c32Init => Sys2Proof.Machine.execC32Init s
  | .c32Updb imm => Sys2Proof.Machine.execC32Updb imm s
  | .c32Updm => Sys2Proof.Machine.execC32Updm s
  | .c32Rd => Sys2Proof.Machine.execC32Rd s
  | .c32Calc => Sys2Proof.Machine.execC32Calc s
  | .md5Init => Sys2Proof.Machine.execMd5Init s
  | .md5Updb imm => Sys2Proof.Machine.execMd5Updb imm s
  | .md5Updm => Sys2Proof.Machine.execMd5Updm s
  | .md5Fin => Sys2Proof.Machine.execMd5Fin s
  | .md5Calc => Sys2Proof.Machine.execMd5Calc s
  | .shaInit => Sys2Proof.Machine.execShaInit s
  | .shaUpdb imm => Sys2Proof.Machine.execShaUpdb imm s
  | .shaUpdm => Sys2Proof.Machine.execShaUpdm s
  | .shaFin => Sys2Proof.Machine.execShaFin s
  | .shaCalc => Sys2Proof.Machine.execShaCalc s
  | .xmPad imm => Sys2Proof.Machine.execXmPad imm s
  | .xmMaxr imm => Sys2Proof.Machine.execXmMaxr imm s
  | .xmSend => Sys2Proof.Machine.execXmSend s
  | .brSet => Sys2Proof.Machine.execBrSet s
  | .brNegBk => Sys2Proof.Machine.execBrNegBk s
  | .brNegEsp => Sys2Proof.Machine.execBrNegEsp s
  | .brNegWm => Sys2Proof.Machine.execBrNegWm s
  | .lpEnc imm => Sys2Proof.Machine.execLpEnc imm s
  | .lpDec imm => Sys2Proof.Machine.execLpDec imm s
  | .slEnc => Sys2Proof.Machine.execSlEnc s
  | .slDec => Sys2Proof.Machine.execSlDec s
  | .slCmd imm => Sys2Proof.Machine.execSlCmd imm s
  | .slRsp imm => Sys2Proof.Machine.execSlRsp imm s
  | .slXsum => Sys2Proof.Machine.execSlXsum s
  | .w21Enc => Sys2Proof.Machine.execW21Enc s
  | .w21Chk => Sys2Proof.Machine.execW21Chk s

end Sys2Proof.Machine
end

