-- ==== Sys2Proof/Machine/HostPort.lean ====
section
/-! DEFINITION. The host port (spec/30_encoding.md R80, R85, R87, spec/10_state.md R26, R29, spec/70_reset_and_hazards.md
R375, R376) and the steps of the other agents (spec/00_scope.md R18): what each scheduled turn does. -/

namespace Sys2Proof.Machine

/-- `XRegs.get` of the operand registers. -/
def State.getX (s : State) (i : Fin 8) : Word := s.x.get i

/-- `x[i] <- v`, by the host. -/
def State.setX (s : State) (i : Fin 8) (v : Word) : State := { s with x := s.x.set i v }

/-- The host port answers `r`. -/
def State.replied (s : State) (r : HostReply) : State := { s with reply := r }

/-- `CTRL.CANCEL <- 1` (R30). -/
def State.setCancel (s : State) : State := { s with ctrl := { s.ctrl with cancel := true } }

/-- `CTRL.STUB <- b` (R31). -/
def State.setStub (s : State) (b : Bool) : State := { s with ctrl := { s.ctrl with stub := b } }

/-- The host writes bytes into `PBUF` from an address upward. -/
def State.poked (s : State) (addr : Nat) (bs : List Byte) : State := { s with pbuf := s.pbuf.storeBytes addr bs }

/-- The block accepts an operation word (R25, R29): `CTRL.BUSY <- 1`, `OPCUR <- OPW`, no continuation. -/
def State.accept (s : State) (w : Half) : State :=
  { s with ctrl := { s.ctrl with busy := true }, opcur := some w, cont := none, reply := .accepted }

/-- The host presents an operation word (R375, R86): refused while busy, the running operation going on (notes/assumptions/5.md);
else accepted, decoded and run, an illegal word raising `IllegalOperation(zext_32(OPW))` (R85). -/
def State.present (s : State) (w : Half) : Host.Outcome State Fault Refusal :=
  if s.ctrl.busy then .next (s.replied .refused).settle
  else
    match decode w with
    | .ok i => exec i (s.accept w)
    | .error _ => .next ((s.accept w).raise .illegalOperation (w.setWidth 32))

/-- A host access that is allowed only while the block is idle (R376): refused while busy, with no change. -/
def State.whileIdle (s : State) (go : State → State) : State :=
  if s.ctrl.busy then s.replied .refused else go (s.replied .accepted)

/-- The host writes a register by number (R26, R29): only `CTRL` has bits the host can change. `CANCEL` takes a 1 at any
time, `STUB` takes either value while idle, and every other write is ignored (notes/assumptions/10.md). -/
def State.putReg (s : State) (reg : Nat) (v : Word) : State :=
  if reg = 0x02 then
    let t := if v.getLsbD 0 then s.setCancel else s
    if s.ctrl.busy then t.replied (if v.getLsbD 0 then .accepted else .refused)
    else (t.setStub (v.getLsbD 1)).replied .accepted
  else s.whileIdle id

/-- What the host does to a busy or idle block other than presenting a word (R87, R376). A `PBUF` range past the end of
the buffer stops the model (notes/assumptions/8.md). -/
def State.hostAct (s : State) : HostAction → Host.Outcome State Fault Refusal
  | .present w => s.present w
  | .setX i v => .next (s.whileIdle fun t => t.setX i v)
  | .getX i => .next (s.whileIdle fun t => t.replied (.value (t.getX i)))
  | .poke addr bs =>
    if !s.ctrl.busy && decide (Config.pbufBytes < addr + bs.length) then .fault (.hostAddress addr)
    else .next (s.whileIdle fun t => t.poked addr bs)
  | .peek addr n =>
    if !s.ctrl.busy && decide (Config.pbufBytes < addr + n) then .fault (.hostAddress addr)
    else .next (s.whileIdle fun t => t.replied (.bytes (t.pbuf.bytes addr n)))
  | .get reg => .next (s.replied (.value (s.readReg reg)))
  | .cancel b => .next ((if b then s.setCancel else s).replied .accepted)
  | .stub b => .next (s.whileIdle fun t => t.setStub b)
  | .put reg v => .next (s.putReg reg v)

/-- The schedule without its first turn. -/
def State.setTurns (s : State) (ts : List Turn) : State := { s with turns := ts }

/-- One step of the machine: the first scheduled turn, and, where it is not the host presenting a word (which `exec` runs
on) or a `hold`, what the block then does by itself (R18, R25; notes/assumptions/5.md). With no turn scheduled the block
moves if it can, and else waits (R351). -/
def State.turn (s : State) : Host.Outcome State Fault Refusal :=
  match s.turns with
  | [] => .next s.settle
  | .hold _ :: rest => .next (s.setTurns rest)
  | .peer b :: rest => .next ((s.setTurns rest).rxPut b).settle
  | .timeout :: rest => .next (s.setTurns rest).timeoutRaised.settle
  | .host (.present w) :: rest => (s.setTurns rest).present w
  | .host a :: rest =>
    match (s.setTurns rest).hostAct a with
    | .next t => .next t.settle
    | .fault f => .fault f
    | .refused r => .refused r

end Sys2Proof.Machine
end

