-- ==== Sys2Proof/Machine/Step.lean ====
section
/-! DEFINITION. The step of the machine, and the interface by which one instruction is placed where the next step runs
it. There is no program counter (spec/10_state.md R24): the machine takes its next operation word from the host's next
turn. -/

namespace Sys2Proof.Machine

/-- One step: the next turn of the schedule. -/
def step (s : State) : Host.Outcome State Fault Refusal := s.turn

/-- `s` with the host about to present the operation word `w` to an idle block: the very next step decodes and runs it
(notes/assumptions/6.md). -/
def State.withFetchWord (s : State) (nbits w : Nat) : State :=
  { s with
    turns := .host (.present (BitVec.ofNat 16 (w % 2 ^ nbits))) :: s.turns
    ctrl := { s.ctrl with busy := false }
    opcur := none
    cont := none }

end Sys2Proof.Machine
end

