-- ==== Sys2Proof/Safety.lean ====
section
/-! DEFINITION. What a safe run is, in the terms statements use: how a state looks after an operation has ended
(spec/60_exceptions.md R343), which operation may end with which code (R331, R333), and the invariant of the machine. -/

namespace Sys2Proof.Machine

/-! ### The end of an operation, written out -/

/-- `s` after an operation ended with this status code, this information word and this sticky fault bit, the block idle
(R343). -/
def State.ended (s : State) (status : Byte) (info : Word) (fault : Bool) : State :=
  { s with
    status := status
    info := info
    ctrl := ⟨s.ctrl.cancel, s.ctrl.stub, s.ctrl.opened, fault, false⟩
    opcur := none
    cont := none }

/-- `s` after a successful completion: `STATUS = 0`, `INFO = 0`, `CTRL.FAULT` as it was. -/
def State.succeeded (s : State) : State := s.ended 0x00#8 0#32 s.ctrl.fault

/-- `s` after a fault with this code and information word. -/
def State.faulted (s : State) (status : Byte) (info : Word) : State := s.ended status info true

/-- `s` waiting at a suspension point. -/
def State.waiting (s : State) (c : Cont) : State := { s with cont := some c }

/-- The environment's draws after one `write`. -/
def State.wrote (s : State) : State :=
  { s with env := { s.env with writes := s.env.writes.tail, drawn := s.env.drawn + 1 } }

/-- The transport has been set to the rate `r` (R232): `BAUD_CUR`, and `RXQ` as the environment draws it (R233). -/
def State.rateSet (s : State) (r : Word) : State :=
  { s with
    baudCur := r
    rxq := s.env.newRxq s.rxq
    env := { s.env with rxqs := s.env.rxqs.tail, drawn := s.env.drawn + 1 } }

/-- Nothing in the way of the block, the next turn taken gives `u`, with which the block then goes on by itself: no turn is left,
or the turn is the peer's byte, the host's `CANCEL` or its read of a register, or a `Timeout`, which ends no wait whose condition
holds (R338). The schedule and the port's answer are the model's own (notes/assumptions/5.md, 7.md, 9.md). -/
def State.agentMoved (s u : State) : Prop :=
  s.turns = [] ∧ u = s ∨
  ∃ rest, holdOf rest = none ∧
    ((∃ b, s.turns = .peer b :: rest ∧ u = { s with turns := rest, rxq := s.rxq ++ [b] }) ∨
     s.turns = .timeout :: rest ∧ u = { s with turns := rest } ∨
     s.turns = .host (.cancel true) :: rest ∧ u = { s with
       turns := rest
       reply := .accepted
       ctrl := ⟨true, s.ctrl.stub, s.ctrl.opened, s.ctrl.fault, s.ctrl.busy⟩ } ∨
     ∃ r, s.turns = .host (.get r) :: rest ∧ u = { s with turns := rest, reply := .value (s.readReg r) })

/-- The block is free to go on by itself: the schedule does not make it rest at a suspension point it could pass. -/
abbrev State.unheld (s : State) : Prop := holdOf s.turns = none

/-- The next `n` writes are scripted to pass (R340). -/
abbrev State.writesPass (s : State) (n : Nat) : Prop :=
  n ≤ s.env.writes.length ∧ ∀ b ∈ s.env.writes.take n, b = false

/-- The range `[addr, addr+n)` lies in `PBUF` (R62). -/
abbrev fits (addr : Word) (n : Nat) : Prop := addr.toNat + n ≤ 2 ^ 24

/-- `m'` is `m` with the byte string `bs` at the addresses from `addr` upward, read byte by byte. -/
def Memory.holds (m' m : Memory) (addr : Nat) (bs : List Byte) : Prop :=
  ∀ a, m'.byteAt a = if addr ≤ a ∧ a < addr + bs.length then bs.getD (a - addr) 0#8 else m.byteAt a

/-- `bs` are the bytes of `m` at `[addr, addr+n)`, lowest address first (R13). -/
abbrev Memory.shows (m : Memory) (addr n : Nat) (bs : List Byte) : Prop :=
  bs.length = n ∧ ∀ k, k < n → bs.getD k 0#8 = m.byteAt (addr + k)

/-! ### Which codes an operation can end with (R331, R333) -/

/-- The codes R333 gives an operation, besides `OK` and the decoder's `IllegalOperation`. -/
def faultCodes : Instr → List Byte
  | .ctxOpen => [0x01#8]
  | .ctxClose | .c16Initf | .c16Initx | .c32Init | .md5Init | .shaInit | .xmPad _ | .xmMaxr _ => []
  | .rxDrain => [0x14#8]
  | .txRaw => [0x02#8, 0x11#8, 0x14#8]
  | .rxRaw => [0x0E#8, 0x11#8, 0x14#8]
  | .c16Updb _ | .c16Rd | .c32Updb _ | .c32Rd => [0x15#8]
  | .c16Updm | .c32Updm | .md5Fin | .shaFin => [0x11#8, 0x15#8]
  | .c16Calcf | .c16Calcx | .c32Calc | .md5Calc | .shaCalc | .slXsum => [0x11#8]
  | .md5Updb _ | .shaUpdb _ => [0x12#8, 0x15#8]
  | .md5Updm | .shaUpdm => [0x11#8, 0x12#8, 0x15#8]
  | .xmSend => [0x02#8, 0x09#8, 0x0A#8, 0x0B#8, 0x0C#8, 0x11#8, 0x14#8]
  | .brSet => [0x13#8, 0x14#8]
  | .brNegBk => [0x02#8, 0x09#8, 0x0D#8, 0x11#8, 0x13#8, 0x14#8]
  | .brNegEsp => [0x02#8, 0x04#8, 0x05#8, 0x0E#8, 0x11#8, 0x13#8, 0x14#8]
  | .brNegWm => [0x02#8, 0x13#8, 0x14#8]
  | .lpEnc _ | .slCmd _ | .w21Enc => [0x02#8, 0x11#8, 0x13#8, 0x14#8]
  | .lpDec _ => [0x04#8, 0x05#8, 0x0E#8, 0x0F#8, 0x11#8, 0x14#8]
  | .slEnc => [0x02#8, 0x11#8, 0x14#8]
  | .slDec => [0x04#8, 0x0E#8, 0x11#8, 0x14#8]
  | .slRsp _ => [0x04#8, 0x05#8, 0x11#8]
  | .w21Chk => [0x04#8, 0x11#8]

/-- The codes that can stand in `STATUS` (R331): `OK` and those "raised by the block". -/
def blockCodes : List Byte :=
  [0x00#8, 0x01#8, 0x02#8, 0x04#8, 0x05#8, 0x09#8, 0x0A#8, 0x0B#8, 0x0C#8, 0x0D#8, 0x0E#8, 0x0F#8, 0x10#8, 0x11#8,
   0x12#8, 0x13#8, 0x14#8, 0x15#8]

/-! ### The words that select nothing (R85) -/

/-- The opcodes R85 lists as belonging to no operation. -/
def unlistedOpcode (o : Nat) : Bool :=
  o = 0x00 || (0x06 ≤ o && o ≤ 0x0F) || (0x17 ≤ o && o ≤ 0x1F) || o = 0x21 || (0x26 ≤ o && o ≤ 0x2F) || o = 0x31
    || (0x36 ≤ o && o ≤ 0x3F) || o = 0x41 || (0x46 ≤ o && o ≤ 0x4F) || (0x53 ≤ o && o ≤ 0x5F) || (0x64 ≤ o && o ≤ 0x6F)
    || o = 0x72 || o = 0x73 || (0x79 ≤ o && o ≤ 0x7B) || o = 0x7E || o = 0x7F || (0x80 ≤ o && o ≤ 0xFF)

/-- No well-formed instruction has this word. -/
def selectsNothing (w : Half) : Prop := ∀ i : Instr, i.wellFormed = true → encode i ≠ w

/-! ### Streaming digests (R165, R182) -/

/-- The MD5 unit has absorbed exactly the message `m` (R165). -/
structure Md5Unit.Absorbed (u : Md5Unit) (m : List Byte) : Prop where
  /-- `MD5_LEN = |M|` -/
  len : u.len.toNat = m.length
  /-- the chaining value after the first `floor(|M| / 64)` blocks -/
  words : u.words = md5Absorb md5Init (m.take (64 * (m.length / 64)))
  /-- `MD5_BUF[0 .. |M| mod 64)` is the rest of the message -/
  buf : u.buf.toList.take (m.length % 64) = m.drop (64 * (m.length / 64))

/-- The SHA-256 unit has absorbed exactly the message `m` (R182). -/
structure ShaUnit.Absorbed (u : ShaUnit) (m : List Byte) : Prop where
  /-- `SHA_LEN = |M|` -/
  len : u.len.toNat = m.length
  /-- the chaining value after the first `floor(|M| / 64)` blocks -/
  words : u.words = shaAbsorb shaInit (m.take (64 * (m.length / 64)))
  /-- `SHA_BUF[0 .. |M| mod 64)` is the rest of the message -/
  buf : u.buf.toList.take (m.length % 64) = m.drop (64 * (m.length / 64))

/-! ### Operations that build one frame and transmit it -/

/-- `i` reads `[x[0], x[0]+x[1])`, refuses a length above `limit`, and puts `frame s m` of the bytes `m` read with one
`write`: the effect, the frame of the operation, and its faults in their order (R273, R283, R288, R297). -/
def Transmits (i : Instr) (limit : Nat) (frame : State → List Byte → List Byte) : Prop :=
  ∀ s : State,
    (s.ctrl.opened = false → exec i s = .next (s.faulted 0x14#8 0#32)) ∧
    (s.ctrl.opened = true → ¬ fits s.x.x0 s.x.x1.toNat → exec i s = .next (s.faulted 0x11#8 s.x.x0)) ∧
    (s.ctrl.opened = true → fits s.x.x0 s.x.x1.toNat → limit < s.x.x1.toNat →
      exec i s = .next (s.faulted 0x13#8 1#32)) ∧
    (∀ m, s.ctrl.opened = true → fits s.x.x0 s.x.x1.toNat → s.x.x1.toNat ≤ limit →
      s.pbuf.shows s.x.x0.toNat s.x.x1.toNat m →
      (s.env.writeFails = true → exec i s = .next (s.wrote.faulted 0x02#8 0#32)) ∧
      (s.env.writeFails = false → exec i s = .next (State.succeeded { s.wrote with tx := s.tx ++ frame s m })))

/-! ### The invariant -/

/-- The instruction whose suspension point a continuation is (R25). -/
def Cont.instr : Cont → Instr
  | .rxRaw => .rxRaw
  | .xmInit | .xmPacket | .xmEot => .xmSend
  | .bkFlush _ | .bkResp _ => .brNegBk
  | .espResp => .brNegEsp
  | .wmSwitch => .brNegWm
  | .lpPrefix d _ | .lpPoll d _ => .lpDec ((BitVec.ofBool d).setWidth 8)
  | .lpLen _ | .lpData _ _ => .lpDec 1#8
  | .slDec => .slDec

/-- The XMODEM state register and counters agree with the suspension point (R44, R191, R199, R204). -/
def State.xmAgrees (s : State) : Prop :=
  match s.cont with
  | some .xmInit => s.xmStat.state = .waitInit
  | some .xmPacket => s.xmStat.state = .send ∧ s.xmK.toNat < xmPackets s.xmTotal.toNat
  | some .xmEot => s.xmStat.state = .eot ∧ s.xmK.toNat = xmPackets s.xmTotal.toNat
  | _ => s.xmStat.state = .idle ∨ s.xmStat.state = .done ∨ s.xmStat.state = .aborted

/-- The negotiation state register and counter agree with the suspension point (R46, R231, R238). -/
def State.brAgrees (s : State) : Prop :=
  match s.cont with
  | some (.bkFlush _) => s.brStat.state = .cmdSent ∧ 1 ≤ s.brStat.attempt.toNat ∧ s.brStat.attempt.toNat ≤ s.brLimit
      ∧ s.brTarget ≠ 0#32
  | some (.bkResp _) => s.brStat.state = .switched ∧ 1 ≤ s.brStat.attempt.toNat ∧ s.brStat.attempt.toNat ≤ s.brLimit
      ∧ s.brTarget ≠ 0#32
  | some .espResp => s.brStat.state = .cmdSent ∧ s.x.x2 ≠ 0#32
  | some .wmSwitch => s.brStat.state = .cmdSent ∧ s.x.x2 ≠ 0#32
  | _ => s.brStat.state = .idle ∨ s.brStat.state = .done ∨ s.brStat.state = .failed

/-- The output range of a pending wait was checked before it, and the counts it holds are within their bounds (R62, R105,
R237, R275, R276, R277). -/
def State.waitAgrees (s : State) : Prop :=
  match s.cont with
  | some .rxRaw => fits s.x.x3 s.x.x1.toNat
  | some (.bkFlush _) | some (.bkResp _) => fits s.x.x3 s.x.x4.toNat
  | some (.lpPrefix _ polls) => polls ≤ 500
  | some (.lpPoll _ polls) => 1 ≤ polls ∧ polls ≤ 500
  | some (.lpLen polls) => polls ≤ 500
  | some (.lpData polls n) => polls ≤ 500 ∧ n ≤ 65535 ∧ fits s.x.x3 n
  | _ => True

/-- The invariant of the machine. -/
structure State.Inv (s : State) : Prop where
  /-- `PBUF` keeps its canonical form and lists no address past its end (R60) -/
  memory : s.pbuf.wf
  /-- `OPCUR` holds the word of the operation that is suspended, and nothing while the block is idle (R25) -/
  opcur : s.opcur = s.cont.map fun c => encode c.instr
  /-- `BUSY` is 1 exactly while an operation is suspended (R29) -/
  busy : s.ctrl.busy = s.cont.isSome
  /-- only operations that need a context wait (R32) -/
  context : s.cont.isSome = true → s.ctrl.opened = true
  /-- `STATUS` holds a code the block raises (R331) -/
  codes : s.status ∈ blockCodes
  /-- a fault code in `STATUS` comes with the sticky bit (R33) -/
  sticky : s.status ≠ 0x00#8 → s.ctrl.fault = true
  /-- the rate is never 0 (R232, R234) -/
  baud : s.baudCur ≠ 0#32
  /-- never more than 2^24 bytes absorbed (R40, R42) -/
  lengths : s.md5.len.toNat ≤ 2 ^ 24 ∧ s.sha.len.toNat ≤ 2 ^ 24
  /-- the payload of the XMODEM sender lies in `PBUF` (R43, R62) -/
  payload : fits s.xmBase s.xmTotal.toNat
  /-- `XM_K` counts packets, `XM_SENT` the payload bytes in them (R43) -/
  progress : s.xmK.toNat ≤ xmPackets s.xmTotal.toNat ∧ s.xmSent.toNat = min (s.xmK.toNat * 1024) s.xmTotal.toNat
  /-- at most eleven attempts (R46) -/
  attempts : s.brStat.attempt.toNat ≤ 11
  /-- the XMODEM state machine -/
  xmodem : s.xmAgrees
  /-- the negotiation state machine -/
  negotiation : s.brAgrees
  /-- the pending wait -/
  wait : s.waitAgrees

/-- The host is about to present the word `w`, and the block is idle. -/
abbrev State.presents (s : State) (w : Half) (rest : List Turn) : Prop :=
  s.turns = .host (.present w) :: rest ∧ s.ctrl.busy = false

/-- `s` once the word `w` has been accepted: `BUSY`, `OPCUR`, no continuation, the schedule without that turn (R25,
R29). -/
def State.accepted (s : State) (w : Half) (rest : List Turn) : State :=
  { s with
    ctrl := ⟨s.ctrl.cancel, s.ctrl.stub, s.ctrl.opened, s.ctrl.fault, true⟩
    opcur := some w
    cont := none
    reply := .accepted
    turns := rest }

end Sys2Proof.Machine
end

