-- ==== Sys2Proof/Certificates/Slice0/Obligations.lean ====
section
/-! DEFINITION. The statements for the provers: what EGFT-CFB does, from the numbered rules of spec/. A state written out
with a record update says the FRAME too: every field not named in it is as before. The fields `turns`, `env` and `reply`
are the model's own (notes/assumptions/5.md, 4.md, 9.md): a rule that lets another agent choose is stated with the agent's
turn or draw as the model holds it, and `drawn` counts draws. -/

section

open Sys2Proof Sys2Proof.Machine

/-! ### Operation words -/

/-- Operation words written out from the table of R84, one or more for each unit, and two illegal ones. -/
def Obligations.DecodeSampleWords : Prop :=
  decode 0x0100#16 = .ok .ctxOpen ∧ decode 0x0500#16 = .ok .rxRaw ∧ decode 0x1231#16 = .ok (.c16Updb 0x31#8) ∧
  decode 0x2500#16 = .ok .c32Calc ∧ decode 0x3261#16 = .ok (.md5Updb 0x61#8) ∧ decode 0x4300#16 = .ok .shaUpdm ∧
  decode 0x501A#16 = .ok (.xmPad 0x1A#8) ∧ decode 0x5200#16 = .ok .xmSend ∧ decode 0x6300#16 = .ok .brNegWm ∧
  decode 0x7032#16 = .ok (.lpEnc 0x32#8) ∧ decode 0x7101#16 = .ok (.lpDec 0x01#8) ∧
  decode 0x7613#16 = .ok (.slCmd 0x13#8) ∧ decode 0x7D00#16 = .ok .w21Chk ∧
  decode 0x0101#16 = .error (.nonzeroLowByte 0x01#8) ∧ decode 0x7102#16 = .error (.nonzeroFlagBits 0x02#8)

/-- Decoding the word of a well-formed instruction gives the instruction back, every operand at every value. -/
def Obligations.DecodeInvertsEncode : Prop :=
  ∀ i : Instr, i.wellFormed = true → decode (encode i) = .ok i

/-- What the decoder accepts is well-formed, and its word is the word decoded: no two words share an instruction. -/
def Obligations.EncodeInvertsDecode : Prop :=
  ∀ (w : Half) (i : Instr), decode w = .ok i → i.wellFormed = true ∧ encode i = w

/-- R85: a word that selects no operation raises `IllegalOperation(zext_32(OPW))` and changes nothing else; every unlisted
opcode, every format N word with a non-zero low byte, every `LP.DEC` word with a bit of 7:1 set, and 0x0000 are such. -/
def Obligations.IllegalWordsRaise : Prop :=
  (∀ (s : State) (w : Half) (rest : List Turn), s.presents w rest → selectsNothing w →
    step s = .next ((s.accepted w rest).faulted 0x10#8 (w.setWidth 32))) ∧
  (∀ o l : Byte, unlistedOpcode o.toNat = true → selectsNothing (o ++ l)) ∧
  (∀ (i : Instr) (l : Byte), i.format = .n → l ≠ 0#8 → selectsNothing (i.opc ++ l)) ∧
  (∀ l : Byte, l &&& 0xFE#8 ≠ 0#8 → selectsNothing (0x71#8 ++ l)) ∧
  selectsNothing 0x0000#16

/-! ### The machine: presenting words, the host port, reset, the invariant -/

/-- Presenting a word that decodes to `i` to an idle block runs `i`: the step is `exec i` of the state in which the word
has been accepted. -/
def Obligations.StepRunsDecodedInstruction : Prop :=
  ∀ (s : State) (w : Half) (rest : List Turn) (i : Instr), s.presents w rest → decode w = .ok i →
    step s = exec i (s.accepted w rest)

/-- A word presented while the block is busy is refused (R375): not decoded, not queued, no state changed. The model's own
choices are that the port's answer stands in `reply` (notes/assumptions/9.md) and that in the same step the running operation
goes on where it can, as after any other turn (`settle`, notes/assumptions/5.md). -/
def Obligations.BusyRefusesWord : Prop :=
  ∀ (s : State) (w : Half) (rest : List Turn), s.turns = .host (.present w) :: rest → s.ctrl.busy = true →
    step s = .next (State.settle { s with turns := rest, reply := .refused })

/-- R376: while the block is busy the host may read any register and write 1 to `CTRL.CANCEL`; every other access is
refused and changes nothing but the port's answer, and a write of 0 to `CTRL.CANCEL` is ignored (R29). So `x[0..5]` are
constant throughout an operation, and `PBUF` until the operation's own write, with which it ends. That a whole-register write
to `CTRL` with bit 0 set sets `CANCEL` and is refused in every other case is the model's reading (notes/assumptions/10.md).
The port's answer (notes/assumptions/9.md) and that after the host's turn the block goes on where it can (`settle`,
notes/assumptions/5.md) are the model's too. -/
def Obligations.HostExclusionWhileBusy : Prop :=
  ∀ s : State, s.ctrl.busy = true →
    (∀ (a : HostAction) (rest : List Turn), s.turns = .host a :: rest →
      (∀ i v, a = .setX i v → step s = .next (State.settle { s with turns := rest, reply := .refused })) ∧
      (∀ i, a = .getX i → step s = .next (State.settle { s with turns := rest, reply := .refused })) ∧
      (∀ b, a = .stub b → step s = .next (State.settle { s with turns := rest, reply := .refused })) ∧
      (∀ k bs, a = .poke k bs → step s = .next (State.settle { s with turns := rest, reply := .refused })) ∧
      (∀ k n, a = .peek k n → step s = .next (State.settle { s with turns := rest, reply := .refused })) ∧
      (∀ r, a = .get r → step s = .next (State.settle { s with turns := rest, reply := .value (s.readReg r) })) ∧
      (a = .cancel true → step s = .next (State.settle { s with
        turns := rest
        reply := .accepted
        ctrl := ⟨true, s.ctrl.stub, s.ctrl.opened, s.ctrl.fault, true⟩ })) ∧
      (a = .cancel false → step s = .next (State.settle { s with turns := rest, reply := .accepted })) ∧
      (∀ r v, a = .put r v → r = 0x02 → v.getLsbD 0 = true → step s = .next (State.settle { s with
        turns := rest
        reply := .accepted
        ctrl := ⟨true, s.ctrl.stub, s.ctrl.opened, s.ctrl.fault, true⟩ })) ∧
      (∀ r v, a = .put r v → r ≠ 0x02 ∨ v.getLsbD 0 = false →
        step s = .next (State.settle { s with turns := rest, reply := .refused }))) ∧
    (∀ t, step s = .next t →
      t.x.x0 = s.x.x0 ∧ t.x.x1 = s.x.x1 ∧ t.x.x2 = s.x.x2 ∧ t.x.x3 = s.x.x3 ∧ t.x.x4 = s.x.x4 ∧ t.x.x5 = s.x.x5 ∧
      (t.ctrl.busy = true → t.pbuf = s.pbuf))

/-- What the host does to an idle block: it writes and reads operand registers and `PBUF`, reads any register by number,
writes 1 to `CTRL.CANCEL` and either value to `CTRL.STUB`, and its writes of 0 to `CTRL.CANCEL` and to every register but
`CTRL` are ignored (R21, R29, R26, R61, R87). A write of the whole of `CTRL` acts field by field, and a `PBUF` range past the
end of the buffer stops the model: both are the model's own (notes/assumptions/10.md, 8.md). -/
def Obligations.IdleHostAccess : Prop :=
  ∀ (s : State) (rest : List Turn), s.ctrl.busy = false → s.cont = none →
    (∀ i v, s.turns = .host (.setX i v) :: rest → ∃ x, step s = .next { s with turns := rest, reply := .accepted, x := x } ∧
      ∀ j, x.get j = if j = i then v else s.x.get j) ∧
    (∀ i, s.turns = .host (.getX i) :: rest → step s = .next { s with turns := rest, reply := .value (s.x.get i) }) ∧
    (∀ k bs, s.turns = .host (.poke k bs) :: rest → k + bs.length ≤ 2 ^ 24 →
      ∃ m, step s = .next { s with turns := rest, reply := .accepted, pbuf := m } ∧ m.holds s.pbuf k bs) ∧
    (∀ k n, s.turns = .host (.peek k n) :: rest → k + n ≤ 2 ^ 24 →
      ∃ bs, step s = .next { s with turns := rest, reply := .bytes bs } ∧ s.pbuf.shows k n bs) ∧
    (∀ b, s.turns = .host (.stub b) :: rest → step s = .next { s with
      turns := rest
      reply := .accepted
      ctrl := ⟨s.ctrl.cancel, b, s.ctrl.opened, s.ctrl.fault, s.ctrl.busy⟩ }) ∧
    (∀ r, s.turns = .host (.get r) :: rest → step s = .next { s with turns := rest, reply := .value (s.readReg r) }) ∧
    (s.turns = .host (.cancel true) :: rest → step s = .next { s with
      turns := rest
      reply := .accepted
      ctrl := ⟨true, s.ctrl.stub, s.ctrl.opened, s.ctrl.fault, s.ctrl.busy⟩ }) ∧
    (s.turns = .host (.cancel false) :: rest → step s = .next { s with turns := rest, reply := .accepted }) ∧
    (∀ v, s.turns = .host (.put 0x02 v) :: rest → step s = .next { s with
      turns := rest
      reply := .accepted
      ctrl := ⟨s.ctrl.cancel || v.getLsbD 0, v.getLsbD 1, s.ctrl.opened, s.ctrl.fault, s.ctrl.busy⟩ }) ∧
    (∀ r v, s.turns = .host (.put r v) :: rest → r ≠ 0x02 → step s = .next { s with turns := rest, reply := .accepted }) ∧
    (∀ k bs, s.turns = .host (.poke k bs) :: rest → 2 ^ 24 < k + bs.length → step s = .fault (.hostAddress k)) ∧
    (∀ k n, s.turns = .host (.peek k n) :: rest → 2 ^ 24 < k + n → step s = .fault (.hostAddress k))

/-- R26, with the field positions of R29, R35, R36, R44 and R46: the number the host reads at each register number, zero at
a number not in the map. -/
def Obligations.RegisterMapReads : Prop :=
  ∀ s : State,
    (s.readReg 0x00).toNat = s.status.toNat ∧ s.readReg 0x01 = s.info ∧
    (s.readReg 0x02).toNat = s.ctrl.cancel.toNat + 2 * s.ctrl.stub.toNat + 4 * s.ctrl.opened.toNat
      + 8 * s.ctrl.fault.toNat + 16 * s.ctrl.busy.toNat ∧
    s.readReg 0x03 = s.baudCur ∧
    (s.readReg 0x04).toNat = s.xmCfg.pad.toNat + 2 ^ 8 * s.xmCfg.maxr.toNat ∧
    (s.readReg 0x05).toNat = (match s.xmStat.state with
      | .idle => 0 | .waitInit => 1 | .send => 2 | .eot => 3 | .done => 4 | .aborted => 5)
      + 8 * s.xmStat.mode.toNat + 2 ^ 8 * s.xmStat.blk.toNat + 2 ^ 16 * s.xmStat.retry.toNat ∧
    s.readReg 0x06 = s.xmBase ∧ s.readReg 0x07 = s.xmTotal ∧ s.readReg 0x08 = s.xmK ∧ s.readReg 0x09 = s.xmSent ∧
    (s.readReg 0x0A).toNat = (match s.brStat.state with
      | .idle => 0 | .cmdSent => 1 | .switched => 2 | .reverted => 3 | .done => 4 | .failed => 5)
      + 2 ^ 8 * s.brStat.attempt.toNat ∧
    s.readReg 0x0B = s.brTarget ∧
    (s.readReg 0x10).toNat = s.valid.v16.toNat + 2 * s.valid.v32.toNat + 4 * s.valid.vmd5.toNat
      + 8 * s.valid.vsha.toNat ∧
    (s.readReg 0x11).toNat = s.crc16.toNat ∧ s.readReg 0x12 = s.crc32 ∧
    s.readReg 0x20 = s.md5.words.a ∧ s.readReg 0x21 = s.md5.words.b ∧ s.readReg 0x22 = s.md5.words.c ∧
    s.readReg 0x23 = s.md5.words.d ∧ s.readReg 0x24 = s.md5.len ∧
    s.readReg 0x30 = s.sha.words.h0 ∧ s.readReg 0x31 = s.sha.words.h1 ∧ s.readReg 0x32 = s.sha.words.h2 ∧
    s.readReg 0x33 = s.sha.words.h3 ∧ s.readReg 0x34 = s.sha.words.h4 ∧ s.readReg 0x35 = s.sha.words.h5 ∧
    s.readReg 0x36 = s.sha.words.h6 ∧ s.readReg 0x37 = s.sha.words.h7 ∧ s.readReg 0x38 = s.sha.len ∧
    (∀ r, (0x0C ≤ r ∧ r ≤ 0x0F) ∨ (0x13 ≤ r ∧ r ≤ 0x1F) ∨ (0x25 ≤ r ∧ r ≤ 0x2F) ∨ 0x39 ≤ r → s.readReg r = 0#32)

/-- The values the spec gives for POR (R53, R371); what R53 leaves unspecified is not stated. -/
def Obligations.ResetValues : Prop :=
  State.reset.status = 0x00#8 ∧ State.reset.info = 0#32 ∧ State.reset.ctrl = ⟨false, false, false, false, false⟩ ∧
  State.reset.baudCur.toNat = 115200 ∧ State.reset.xmCfg = ⟨0xFF#8, 5#8⟩ ∧
  (State.reset.readReg 0x05).toNat = 0 ∧ State.reset.xmBase = 0#32 ∧ State.reset.xmTotal = 0#32 ∧
  State.reset.xmK = 0#32 ∧ State.reset.xmSent = 0#32 ∧ (State.reset.readReg 0x0A).toNat = 0 ∧
  State.reset.brTarget = 0#32 ∧ State.reset.valid = ⟨false, false, false, false⟩ ∧
  State.reset.rxq = [] ∧ State.reset.tx = [] ∧ State.reset.evt = [] ∧ State.reset.opcur = none ∧ State.reset.cont = none

/-- The machine right after POR meets the invariant. -/
def Obligations.ResetMeetsInvariant : Prop := State.reset.Inv

/-- Every step of the machine, whoever takes it, keeps the invariant. -/
def Obligations.StepKeepsInvariant : Prop :=
  ∀ s t : State, s.Inv → step s = .next t → t.Inv

/-! ### Context and transport -/

/-- R101: `CTX.OPEN` resets the per-operation state and opens the context; where `connect()` fails, everything is reset all
the same and the fault is `TransportOpen`. `x`, `PBUF`, `VALID`, the units and `TX` are not changed. -/
def Obligations.CtxOpenResets : Prop :=
  decode 0x0100#16 = .ok .ctxOpen ∧
  ∀ s : State, ∃ r : State,
    r = { s with
      ctrl := ⟨false, false, false, false, s.ctrl.busy⟩
      baudCur := 115200#32
      xmCfg := ⟨0xFF#8, 5#8⟩
      xmStat := ⟨.idle, false, 0#8, 0#8⟩
      xmBase := 0#32
      xmTotal := 0#32
      xmK := 0#32
      xmSent := 0#32
      brStat := ⟨.idle, 0#5⟩
      brTarget := 0#32
      rxq := []
      evt := []
      env := { s.env with connects := s.env.connects.tail, drawn := s.env.drawn + 1 } } ∧
    (s.env.connectFails = true → exec .ctxOpen s = .next (r.faulted 0x01#8 0#32)) ∧
    (s.env.connectFails = false → exec .ctxOpen s = .next
      (State.succeeded { r with ctrl := ⟨false, false, true, false, s.ctrl.busy⟩ }))

/-- R102 and R103: `CTX.CLOSE` clears `CTRL.OPEN` and empties `RXQ`, and cannot fail; `RX.DRAIN` counts and discards what is
queued. -/
def Obligations.CtxCloseAndDrain : Prop :=
  decode 0x0200#16 = .ok .ctxClose ∧ decode 0x0300#16 = .ok .rxDrain ∧
  ∀ s : State,
    exec .ctxClose s = .next (State.succeeded { s with
      ctrl := ⟨s.ctrl.cancel, s.ctrl.stub, false, s.ctrl.fault, s.ctrl.busy⟩
      rxq := [] }) ∧
    (s.ctrl.opened = false → exec .rxDrain s = .next (s.faulted 0x14#8 0#32)) ∧
    (s.ctrl.opened = true → exec .rxDrain s = .next (State.succeeded { s with
      x := { s.x with x6 := BitVec.ofNat 32 s.rxq.length }
      rxq := [] }))

/-- R106: `TX.RAW` puts the bytes of `[x[0], x[0]+x[1])` to `TX`, all or none; with `x[1] = 0` it puts nothing and
succeeds. -/
def Obligations.TxRawTransmits : Prop :=
  decode 0x0400#16 = .ok .txRaw ∧
  ∀ s : State,
    (s.ctrl.opened = false → exec .txRaw s = .next (s.faulted 0x14#8 0#32)) ∧
    (s.ctrl.opened = true → ¬ fits s.x.x0 s.x.x1.toNat → exec .txRaw s = .next (s.faulted 0x11#8 s.x.x0)) ∧
    (∀ m, s.ctrl.opened = true → fits s.x.x0 s.x.x1.toNat → s.pbuf.shows s.x.x0.toNat s.x.x1.toNat m →
      (s.x.x1 = 0#32 → exec .txRaw s = .next s.succeeded) ∧
      (s.x.x1 ≠ 0#32 → s.env.writeFails = true → exec .txRaw s = .next (s.wrote.faulted 0x02#8 0#32)) ∧
      (s.x.x1 ≠ 0#32 → s.env.writeFails = false →
        exec .txRaw s = .next (State.succeeded { s.wrote with tx := s.tx ++ m })))

/-- R105: `RX.RAW` stores the first `x[1]` bytes of `RXQ` at `x[3]` once they are there, without waiting where they already
are, whatever the schedule; until then it waits, and on `Timeout` nothing is removed. So it delivers exactly the bytes asked
for, or `Timeout` (R299). -/
def Obligations.RxRawReceives : Prop :=
  decode 0x0500#16 = .ok .rxRaw ∧
  ∀ s : State,
    (s.ctrl.opened = false → exec .rxRaw s = .next (s.faulted 0x14#8 0#32)) ∧
    (s.ctrl.opened = true → ¬ fits s.x.x3 s.x.x1.toNat → exec .rxRaw s = .next (s.faulted 0x11#8 s.x.x3)) ∧
    (s.ctrl.opened = true → fits s.x.x3 s.x.x1.toNat → s.x.x1.toNat ≤ s.rxq.length →
      ∃ m, m.holds s.pbuf s.x.x3.toNat (s.rxq.take s.x.x1.toNat) ∧
        exec .rxRaw s = .next (State.succeeded { s with
          pbuf := m
          rxq := s.rxq.drop s.x.x1.toNat
          x := { s.x with x6 := s.x.x1 } })) ∧
    (s.ctrl.opened = true → fits s.x.x3 s.x.x1.toNat → s.rxq.length < s.x.x1.toNat →
      exec .rxRaw s = .next (s.waiting .rxRaw)) ∧
    (∀ b rest, s.cont = some .rxRaw → fits s.x.x3 s.x.x1.toNat → s.x.x1.toNat = s.rxq.length + 1 →
      s.turns = .peer b :: rest → holdOf rest = none →
      ∃ m, m.holds s.pbuf s.x.x3.toNat (s.rxq ++ [b]) ∧
        step s = .next (State.succeeded { s with
          turns := rest
          pbuf := m
          rxq := []
          x := { s.x with x6 := s.x.x1 } })) ∧
    (∀ rest, s.cont = some .rxRaw → s.rxq.length < s.x.x1.toNat → s.turns = .timeout :: rest →
      step s = .next (State.faulted { s with turns := rest } 0x0E#8 s.x.x1))

/-! ### CRC -/

/-- R126, R127, R129, R130, R131: the streaming CRC-16 operations, their results, frames and faults. -/
def Obligations.Crc16Streaming : Prop :=
  decode 0x1000#16 = .ok .c16Initf ∧ decode 0x1100#16 = .ok .c16Initx ∧
  (∀ b : Byte, decode (0x12#8 ++ b) = .ok (.c16Updb b)) ∧
  decode 0x1300#16 = .ok .c16Updm ∧ decode 0x1400#16 = .ok .c16Rd ∧
  ∀ s : State,
    exec .c16Initf s = .next (State.succeeded { s with crc16 := 0xFFFF#16, valid := { s.valid with v16 := true } }) ∧
    exec .c16Initx s = .next (State.succeeded { s with crc16 := 0x0000#16, valid := { s.valid with v16 := true } }) ∧
    (s.valid.v16 = false → ∀ b,
      exec (.c16Updb b) s = .next (s.faulted 0x15#8 1#32) ∧ exec .c16Updm s = .next (s.faulted 0x15#8 1#32) ∧
      exec .c16Rd s = .next (s.faulted 0x15#8 1#32)) ∧
    (s.valid.v16 = true →
      (∀ b, exec (.c16Updb b) s = .next (State.succeeded { s with crc16 := crc16Step s.crc16 b })) ∧
      exec .c16Rd s = .next (State.succeeded { s with x := { s.x with x6 := s.crc16.setWidth 32 } }) ∧
      (¬ fits s.x.x0 s.x.x1.toNat → exec .c16Updm s = .next (s.faulted 0x11#8 s.x.x0)) ∧
      (∀ m, fits s.x.x0 s.x.x1.toNat → s.pbuf.shows s.x.x0.toNat s.x.x1.toNat m →
        exec .c16Updm s = .next (State.succeeded { s with crc16 := crc16 s.crc16 m })))

/-- R137 to R140: the streaming CRC-32 operations, their results, frames and faults. -/
def Obligations.Crc32Streaming : Prop :=
  decode 0x2000#16 = .ok .c32Init ∧ (∀ b : Byte, decode (0x22#8 ++ b) = .ok (.c32Updb b)) ∧
  decode 0x2300#16 = .ok .c32Updm ∧ decode 0x2400#16 = .ok .c32Rd ∧
  ∀ s : State,
    exec .c32Init s = .next (State.succeeded { s with crc32 := s.x.x2, valid := { s.valid with v32 := true } }) ∧
    (s.valid.v32 = false → ∀ b,
      exec (.c32Updb b) s = .next (s.faulted 0x15#8 2#32) ∧ exec .c32Updm s = .next (s.faulted 0x15#8 2#32) ∧
      exec .c32Rd s = .next (s.faulted 0x15#8 2#32)) ∧
    (s.valid.v32 = true →
      (∀ b, exec (.c32Updb b) s = .next (State.succeeded { s with crc32 := crc32Step s.crc32 b })) ∧
      exec .c32Rd s = .next (State.succeeded { s with x := { s.x with x6 := s.crc32 } }) ∧
      (¬ fits s.x.x0 s.x.x1.toNat → exec .c32Updm s = .next (s.faulted 0x11#8 s.x.x0)) ∧
      (∀ m, fits s.x.x0 s.x.x1.toNat → s.pbuf.shows s.x.x0.toNat s.x.x1.toNat m →
        exec .c32Updm s = .next (State.succeeded { s with crc32 := crc32 s.crc32 m })))

/-- R132, R133, R141: the one-shot CRC operations deliver the check of the range and touch no unit register. -/
def Obligations.CrcOneShot : Prop :=
  decode 0x1500#16 = .ok .c16Calcf ∧ decode 0x1600#16 = .ok .c16Calcx ∧ decode 0x2500#16 = .ok .c32Calc ∧
  ∀ s : State,
    (¬ fits s.x.x0 s.x.x1.toNat → ∀ i, i = .c16Calcf ∨ i = .c16Calcx ∨ i = .c32Calc →
      exec i s = .next (s.faulted 0x11#8 s.x.x0)) ∧
    (∀ m, fits s.x.x0 s.x.x1.toNat → s.pbuf.shows s.x.x0.toNat s.x.x1.toNat m →
      exec .c16Calcf s = .next (State.succeeded { s with x := { s.x with x6 := (crc16 0xFFFF#16 m).setWidth 32 } }) ∧
      exec .c16Calcx s = .next (State.succeeded { s with x := { s.x with x6 := (crc16 0x0000#16 m).setWidth 32 } }) ∧
      exec .c32Calc s = .next (State.succeeded { s with x := { s.x with x6 := crc32 s.x.x2 m } }))

/-- The table forms of the two byte steps (R124, R135): one shift and one table entry, for every remainder and byte. -/
def Obligations.CrcTableForm : Prop :=
  (∀ (c : Half) (b : Byte),
    crc16Step c b = (c <<< 8) ^^^ crc16Step 0#16 ((c >>> 8).setWidth 8 ^^^ b)) ∧
  (∀ (c : Word) (b : Byte),
    crc32Step c b = (c >>> 8) ^^^ crc32Step 0#32 (c.setWidth 8 ^^^ b)) ∧
  crc16Step 0#16 0x80#8 = 0x9188#16 ∧ crc16Step 0#16 0xFF#8 = 0x1EF0#16 ∧
  crc32Step 0#32 0x01#8 = 0x77073096#32 ∧ crc32Step 0#32 0xFF#8 = 0x2D02EF8D#32

/-- R125 and R142: chaining, the empty message, all-zero messages, and the check values of `"123456789"`, for `crc32` the one
that R136 gives. -/
def Obligations.CrcLaws : Prop :=
  (∀ (i : Half) (a b : List Byte), crc16 (crc16 i a) b = crc16 i (a ++ b)) ∧
  (∀ (i : Word) (a b : List Byte), crc32 (crc32 i a) b = crc32 i (a ++ b)) ∧
  (∀ i, crc32 i [] = i) ∧ (∀ n, crc32 0#32 (List.replicate n 0x00#8) = 0#32) ∧
  crc16CcittFalse [0x31#8, 0x32#8, 0x33#8, 0x34#8, 0x35#8, 0x36#8, 0x37#8, 0x38#8, 0x39#8] = 0x29B1#16 ∧
  crc16Xmodem [0x31#8, 0x32#8, 0x33#8, 0x34#8, 0x35#8, 0x36#8, 0x37#8, 0x38#8, 0x39#8] = 0x31C3#16 ∧
  crc32 0xFFFFFFFF#32 [0x31#8, 0x32#8, 0x33#8, 0x34#8, 0x35#8, 0x36#8, 0x37#8, 0x38#8, 0x39#8] = 0x340BC6D9#32

/-! ### MD5 and SHA-256 -/

/-- R157 and R163: `MD5.INIT` loads the initial words, and `MD5.CALC` writes the digest of the input range at `x[3]` and
touches nothing else; the ranges may overlap. The digest is pinned by the values that R156 gives for the empty message and R163
for `"123456789"`. -/
def Obligations.Md5InitAndCalc : Prop :=
  decode 0x3000#16 = .ok .md5Init ∧ decode 0x3500#16 = .ok .md5Calc ∧
  (∀ s : State,
    (∃ buf, exec .md5Init s = .next (State.succeeded { s with
      md5 := ⟨⟨0x67452301#32, 0xEFCDAB89#32, 0x98BADCFE#32, 0x10325476#32⟩, buf, 0#32⟩
      valid := { s.valid with vmd5 := true } })) ∧
    (¬ fits s.x.x0 s.x.x1.toNat → exec .md5Calc s = .next (s.faulted 0x11#8 s.x.x0)) ∧
    (fits s.x.x0 s.x.x1.toNat → ¬ fits s.x.x3 16 → exec .md5Calc s = .next (s.faulted 0x11#8 s.x.x3)) ∧
    (∀ m, fits s.x.x0 s.x.x1.toNat → fits s.x.x3 16 → s.pbuf.shows s.x.x0.toNat s.x.x1.toNat m →
      ∃ p, p.holds s.pbuf s.x.x3.toNat (md5 m) ∧ (md5 m).length = 16 ∧
        exec .md5Calc s = .next (State.succeeded { s with pbuf := p }))) ∧
  md5 [] =
    [0xD4#8, 0x1D#8, 0x8C#8, 0xD9#8, 0x8F#8, 0x00#8, 0xB2#8, 0x04#8, 0xE9#8, 0x80#8, 0x09#8, 0x98#8,
     0xEC#8, 0xF8#8, 0x42#8, 0x7E#8] ∧
  md5 [0x31#8, 0x32#8, 0x33#8, 0x34#8, 0x35#8, 0x36#8, 0x37#8, 0x38#8, 0x39#8] =
    [0x25#8, 0xF9#8, 0xE7#8, 0x94#8, 0x32#8, 0x3B#8, 0x45#8, 0x38#8, 0x85#8, 0xF5#8, 0x18#8, 0x1F#8,
     0x1B#8, 0x62#8, 0x4D#8, 0x0B#8]

/-- R165: between `MD5.INIT` and `MD5.FIN` the unit has absorbed exactly the concatenation of the bytes given to it, and
`MD5.FIN` delivers the digest of that message, whatever way it was split; what `MD5.CALC` delivers for it. `MD5_BUF` after
`MD5.FIN` is a free value (notes/assumptions/12.md). -/
def Obligations.Md5StreamingLaw : Prop :=
  (∀ s : State, ∃ u, exec .md5Init s = .next (State.succeeded { s with md5 := u, valid := { s.valid with vmd5 := true } }) ∧
    u.Absorbed []) ∧
  (∀ (s : State) (m : List Byte) (b : Byte), s.valid.vmd5 = true → s.md5.Absorbed m → m.length < 2 ^ 24 →
    ∃ u, exec (.md5Updb b) s = .next (State.succeeded { s with md5 := u }) ∧ u.Absorbed (m ++ [b])) ∧
  (∀ (s : State) (m p : List Byte), s.valid.vmd5 = true → s.md5.Absorbed m → fits s.x.x0 s.x.x1.toNat →
    s.pbuf.shows s.x.x0.toNat s.x.x1.toNat p → m.length + p.length ≤ 2 ^ 24 →
    ∃ u, exec .md5Updm s = .next (State.succeeded { s with md5 := u }) ∧ u.Absorbed (m ++ p)) ∧
  (∀ (s : State) (m : List Byte), s.valid.vmd5 = true → s.md5.Absorbed m → fits s.x.x3 16 →
    ∃ (p : Memory) (w : Md5Words) (buf : Vector Byte 64), p.holds s.pbuf s.x.x3.toNat (md5 m) ∧ md5Digest w = md5 m ∧
      exec .md5Fin s = .next (State.succeeded { s with
        pbuf := p
        md5 := ⟨w, buf, s.md5.len⟩
        valid := { s.valid with vmd5 := false }
        env := { s.env with drawn := s.env.drawn + 1 } })) ∧
  (∀ (s : State) (m : List Byte), fits s.x.x0 s.x.x1.toNat → s.pbuf.shows s.x.x0.toNat s.x.x1.toNat m → fits s.x.x3 16 →
    ∃ p, p.holds s.pbuf s.x.x3.toNat (md5 m) ∧ exec .md5Calc s = .next (State.succeeded { s with pbuf := p }))

/-- R159, R160 and the order of R162 and R158: `NotInitialised(3)` before `BufferRange` before `LengthLimit(3)`, each with
no other change. A length above 2^24, which no run reaches, raises too, as R159 says (notes/assumptions/20.md). -/
def Obligations.Md5Faults : Prop :=
  ∀ s : State,
    (s.valid.vmd5 = false → ∀ b,
      exec (.md5Updb b) s = .next (s.faulted 0x15#8 3#32) ∧ exec .md5Updm s = .next (s.faulted 0x15#8 3#32) ∧
      exec .md5Fin s = .next (s.faulted 0x15#8 3#32)) ∧
    (s.valid.vmd5 = true →
      (2 ^ 24 < s.md5.len.toNat + 1 → ∀ b, exec (.md5Updb b) s = .next (s.faulted 0x12#8 3#32)) ∧
      (¬ fits s.x.x0 s.x.x1.toNat → exec .md5Updm s = .next (s.faulted 0x11#8 s.x.x0)) ∧
      (fits s.x.x0 s.x.x1.toNat → 2 ^ 24 < s.md5.len.toNat + s.x.x1.toNat →
        exec .md5Updm s = .next (s.faulted 0x12#8 3#32)) ∧
      (¬ fits s.x.x3 16 → exec .md5Fin s = .next (s.faulted 0x11#8 s.x.x3)))

/-- R176 and R181: `SHA.INIT` loads the initial words, and `SHA.CALC` writes the digest of the input range at `x[3]` and
touches nothing else; the ranges may overlap. The digest is pinned by the values that R175 gives for `"abc"` and R181 for the
empty message and `"123456789"`. -/
def Obligations.ShaInitAndCalc : Prop :=
  decode 0x4000#16 = .ok .shaInit ∧ decode 0x4500#16 = .ok .shaCalc ∧
  (∀ s : State,
    (∃ buf, exec .shaInit s = .next (State.succeeded { s with
      sha := ⟨⟨0x6A09E667#32, 0xBB67AE85#32, 0x3C6EF372#32, 0xA54FF53A#32, 0x510E527F#32, 0x9B05688C#32, 0x1F83D9AB#32,
        0x5BE0CD19#32⟩, buf, 0#32⟩
      valid := { s.valid with vsha := true } })) ∧
    (¬ fits s.x.x0 s.x.x1.toNat → exec .shaCalc s = .next (s.faulted 0x11#8 s.x.x0)) ∧
    (fits s.x.x0 s.x.x1.toNat → ¬ fits s.x.x3 32 → exec .shaCalc s = .next (s.faulted 0x11#8 s.x.x3)) ∧
    (∀ m, fits s.x.x0 s.x.x1.toNat → fits s.x.x3 32 → s.pbuf.shows s.x.x0.toNat s.x.x1.toNat m →
      ∃ p, p.holds s.pbuf s.x.x3.toNat (sha256 m) ∧ (sha256 m).length = 32 ∧
        exec .shaCalc s = .next (State.succeeded { s with pbuf := p }))) ∧
  sha256 [0x61#8, 0x62#8, 0x63#8] =
    [0xBA#8, 0x78#8, 0x16#8, 0xBF#8, 0x8F#8, 0x01#8, 0xCF#8, 0xEA#8, 0x41#8, 0x41#8, 0x40#8, 0xDE#8,
     0x5D#8, 0xAE#8, 0x22#8, 0x23#8, 0xB0#8, 0x03#8, 0x61#8, 0xA3#8, 0x96#8, 0x17#8, 0x7A#8, 0x9C#8,
     0xB4#8, 0x10#8, 0xFF#8, 0x61#8, 0xF2#8, 0x00#8, 0x15#8, 0xAD#8] ∧
  sha256 [] =
    [0xE3#8, 0xB0#8, 0xC4#8, 0x42#8, 0x98#8, 0xFC#8, 0x1C#8, 0x14#8, 0x9A#8, 0xFB#8, 0xF4#8, 0xC8#8,
     0x99#8, 0x6F#8, 0xB9#8, 0x24#8, 0x27#8, 0xAE#8, 0x41#8, 0xE4#8, 0x64#8, 0x9B#8, 0x93#8, 0x4C#8,
     0xA4#8, 0x95#8, 0x99#8, 0x1B#8, 0x78#8, 0x52#8, 0xB8#8, 0x55#8] ∧
  sha256 [0x31#8, 0x32#8, 0x33#8, 0x34#8, 0x35#8, 0x36#8, 0x37#8, 0x38#8, 0x39#8] =
    [0x15#8, 0xE2#8, 0xB0#8, 0xD3#8, 0xC3#8, 0x38#8, 0x91#8, 0xEB#8, 0xB0#8, 0xF1#8, 0xEF#8, 0x60#8,
     0x9E#8, 0xC4#8, 0x19#8, 0x42#8, 0x0C#8, 0x20#8, 0xE3#8, 0x20#8, 0xCE#8, 0x94#8, 0xC6#8, 0x5F#8,
     0xBC#8, 0x8C#8, 0x33#8, 0x12#8, 0x44#8, 0x8E#8, 0xB2#8, 0x25#8]

/-- R182: between `SHA.INIT` and `SHA.FIN` the unit has absorbed exactly the concatenation of the bytes given to it, and
`SHA.FIN` delivers the digest of that message, whatever way it was split; what `SHA.CALC` delivers for it. `SHA_BUF` after
`SHA.FIN` is a free value (notes/assumptions/12.md). -/
def Obligations.ShaStreamingLaw : Prop :=
  (∀ s : State, ∃ u, exec .shaInit s = .next (State.succeeded { s with sha := u, valid := { s.valid with vsha := true } }) ∧
    u.Absorbed []) ∧
  (∀ (s : State) (m : List Byte) (b : Byte), s.valid.vsha = true → s.sha.Absorbed m → m.length < 2 ^ 24 →
    ∃ u, exec (.shaUpdb b) s = .next (State.succeeded { s with sha := u }) ∧ u.Absorbed (m ++ [b])) ∧
  (∀ (s : State) (m p : List Byte), s.valid.vsha = true → s.sha.Absorbed m → fits s.x.x0 s.x.x1.toNat →
    s.pbuf.shows s.x.x0.toNat s.x.x1.toNat p → m.length + p.length ≤ 2 ^ 24 →
    ∃ u, exec .shaUpdm s = .next (State.succeeded { s with sha := u }) ∧ u.Absorbed (m ++ p)) ∧
  (∀ (s : State) (m : List Byte), s.valid.vsha = true → s.sha.Absorbed m → fits s.x.x3 32 →
    ∃ (p : Memory) (w : ShaWords) (buf : Vector Byte 64), p.holds s.pbuf s.x.x3.toNat (sha256 m) ∧
      shaDigest w = sha256 m ∧
      exec .shaFin s = .next (State.succeeded { s with
        pbuf := p
        sha := ⟨w, buf, s.sha.len⟩
        valid := { s.valid with vsha := false }
        env := { s.env with drawn := s.env.drawn + 1 } })) ∧
  (∀ (s : State) (m : List Byte), fits s.x.x0 s.x.x1.toNat → s.pbuf.shows s.x.x0.toNat s.x.x1.toNat m → fits s.x.x3 32 →
    ∃ p, p.holds s.pbuf s.x.x3.toNat (sha256 m) ∧ exec .shaCalc s = .next (State.succeeded { s with pbuf := p }))

/-- R180 and the order of R178 and R179: `NotInitialised(4)` before `BufferRange` before `LengthLimit(4)`, each with no
other change. A length above 2^24, which no run reaches, raises too, as R180 says (notes/assumptions/20.md). -/
def Obligations.ShaFaults : Prop :=
  ∀ s : State,
    (s.valid.vsha = false → ∀ b,
      exec (.shaUpdb b) s = .next (s.faulted 0x15#8 4#32) ∧ exec .shaUpdm s = .next (s.faulted 0x15#8 4#32) ∧
      exec .shaFin s = .next (s.faulted 0x15#8 4#32)) ∧
    (s.valid.vsha = true →
      (2 ^ 24 < s.sha.len.toNat + 1 → ∀ b, exec (.shaUpdb b) s = .next (s.faulted 0x12#8 4#32)) ∧
      (¬ fits s.x.x0 s.x.x1.toNat → exec .shaUpdm s = .next (s.faulted 0x11#8 s.x.x0)) ∧
      (fits s.x.x0 s.x.x1.toNat → 2 ^ 24 < s.sha.len.toNat + s.x.x1.toNat →
        exec .shaUpdm s = .next (s.faulted 0x12#8 4#32)) ∧
      (¬ fits s.x.x3 32 → exec .shaFin s = .next (s.faulted 0x11#8 s.x.x3)))

/-! ### XMODEM -/

/-- R194 and R195: the two configuration operations write `XM_CFG` and nothing else, with or without a context. -/
def Obligations.XmConfiguration : Prop :=
  (∀ p : Byte, decode (0x50#8 ++ p) = .ok (.xmPad p)) ∧ (∀ m : Byte, decode (0x51#8 ++ m) = .ok (.xmMaxr m)) ∧
  ∀ (s : State) (v : Byte),
    exec (.xmPad v) s = .next (State.succeeded { s with xmCfg := ⟨v, s.xmCfg.maxr⟩ }) ∧
    exec (.xmMaxr v) s = .next (State.succeeded { s with xmCfg := ⟨s.xmCfg.pad, v⟩ })

/-- R196 and R197: what a packet holds. The data field is 1024 bytes, payload then padding; the header is `STX`, the block
number `(k+1) mod 256` and 255 minus it; the check covers the data field, high byte first in CRC mode. -/
def Obligations.XmPacketBytes : Prop :=
  (∀ total : Nat, xmPackets total = if total % 1024 = 0 then total / 1024 else total / 1024 + 1) ∧
  ∀ (p : List Byte) (pad : Byte) (mode : Bool) (k : Nat), k < xmPackets p.length →
    ∃ d : List Byte, d.length = 1024 ∧
      (∀ j, j < 1024 → d.getD j 0#8 = if 1024 * k + j < p.length then p.getD (1024 * k + j) 0#8 else pad) ∧
      xmPacket p pad mode k = [0x02#8, BitVec.ofNat 8 ((k + 1) % 256), 255#8 - BitVec.ofNat 8 ((k + 1) % 256)] ++ d ++
        (if mode then [(crc16 0#16 d).extractLsb' 8 8, (crc16 0#16 d).extractLsb' 0 8]
          else [BitVec.ofNat 8 ((d.map BitVec.toNat).sum % 256)]) ∧
      (xmPacket p pad mode k).length = if mode then 1029 else 1028

/-- The whole of `XM.SEND` where the peer acknowledges everything (R193, R198, R199, R203, R204, R207): the initiation byte
chooses the mode, each packet and the `EOT` are transmitted once, one `ACK` is consumed for each, and one progress event is
emitted for each packet. With an empty payload there is the `EOT` alone (R205). -/
def Obligations.XmSendDelivers : Prop :=
  decode 0x5200#16 = .ok .xmSend ∧
  ∀ (s : State) (p rest : List Byte) (b : Byte) (n : Nat),
    s.ctrl.opened = true → s.ctrl.cancel = false → fits s.x.x0 s.x.x1.toNat →
    s.pbuf.shows s.x.x0.toNat s.x.x1.toNat p → b = 0x43#8 ∨ b = 0x15#8 → n = (s.x.x1.toNat + 1023) / 1024 →
    s.rxq = b :: (List.replicate (n + 1) 0x06#8 ++ rest) → s.writesPass (n + 1) → s.unheld →
    exec .xmSend s = .next (State.succeeded { s with
      xmBase := s.x.x0
      xmTotal := s.x.x1
      xmK := BitVec.ofNat 32 n
      xmSent := s.x.x1
      xmStat := ⟨.done, b == 0x43#8, BitVec.ofNat 8 n, 0#8⟩
      x := { s.x with x6 := BitVec.ofNat 32 n, x7 := if b = 0x43#8 then 1#32 else 0#32 }
      rxq := rest
      tx := s.tx ++ (List.range n).flatMap (fun k => xmPacket p s.xmCfg.pad (b == 0x43#8) k) ++ [0x04#8]
      evt := s.evt ++ (List.range n).map (fun k => .progress (BitVec.ofNat 32 (min ((k + 1) * 1024) s.x.x1.toNat)) s.x.x1
        (BitVec.ofNat 32 (k + 1)) (BitVec.ofNat 32 (k * 1024)))
      env := { s.env with writes := s.env.writes.drop (n + 1), drawn := s.env.drawn + (n + 1) } })

/-- The start of `XM.SEND` (R198, R86): `NoContext`, then `BufferRange` with nothing changed, then the latch and the wait for
the initiation byte; a byte already queued that is neither `'C'` nor `NAK` aborts with `XmodemInitiationFailed` (R193). -/
def Obligations.XmSendStarts : Prop :=
  ∀ s : State,
    (s.ctrl.opened = false → exec .xmSend s = .next (s.faulted 0x14#8 0#32)) ∧
    (s.ctrl.opened = true → ¬ fits s.x.x0 s.x.x1.toNat → exec .xmSend s = .next (s.faulted 0x11#8 s.x.x0)) ∧
    (s.ctrl.opened = true → fits s.x.x0 s.x.x1.toNat → s.rxq = [] →
      exec .xmSend s = .next (State.waiting { s with
        xmBase := s.x.x0
        xmTotal := s.x.x1
        xmK := 0#32
        xmSent := 0#32
        xmStat := ⟨.waitInit, false, 0#8, 0#8⟩ } .xmInit)) ∧
    (∀ (b : Byte) (q : List Byte), s.ctrl.opened = true → fits s.x.x0 s.x.x1.toNat → s.rxq = b :: q → s.unheld →
      b ≠ 0x43#8 → b ≠ 0x15#8 →
      exec .xmSend s = .next (State.faulted { s with
        xmBase := s.x.x0
        xmTotal := s.x.x1
        xmK := 0#32
        xmSent := 0#32
        xmStat := ⟨.aborted, false, 0#8, 0#8⟩
        rxq := q } 0x0A#8 (b.setWidth 32)))

/-- R193: exactly one byte, the oldest, is read; `'C'` chooses CRC mode, `NAK` checksum mode, and the first packet follows;
with an empty payload the `EOT` follows (R205); a failing `write` aborts (R206); any other byte or a timeout aborts with
`XmodemInitiationFailed`. -/
def Obligations.XmInitiation : Prop :=
  ∀ (s : State) (e : Turn) (rest : List Turn), s.cont = some .xmInit → s.rxq = [] → s.turns = e :: rest →
    holdOf rest = none →
    (∀ b, e = .peer b → b ≠ 0x43#8 → b ≠ 0x15#8 →
      step s = .next (State.faulted { s with turns := rest, xmStat := { s.xmStat with state := .aborted } } 0x0A#8
        (b.setWidth 32))) ∧
    (e = .timeout →
      step s = .next (State.faulted { s with turns := rest, xmStat := { s.xmStat with state := .aborted } } 0x0A#8
        0x100#32)) ∧
    (∀ b p, e = .peer b → b = 0x43#8 ∨ b = 0x15#8 → s.ctrl.cancel = false → s.env.writeFails = false →
      s.xmK = 0#32 → 0 < s.xmTotal.toNat → s.pbuf.shows s.xmBase.toNat s.xmTotal.toNat p →
      step s = .next (State.waiting { s.wrote with
        turns := rest
        tx := s.tx ++ xmPacket p s.xmCfg.pad (b == 0x43#8) 0
        xmStat := ⟨.send, b == 0x43#8, 1#8, 0#8⟩ } .xmPacket)) ∧
    (∀ b, e = .peer b → b = 0x43#8 ∨ b = 0x15#8 → s.ctrl.cancel = false → s.env.writeFails = true → s.xmK = 0#32 →
      step s = .next (State.faulted { s.wrote with
        turns := rest
        xmStat := ⟨.aborted, b == 0x43#8, if s.xmTotal = 0#32 then s.xmStat.blk else 1#8, 0#8⟩ } 0x02#8 0#32)) ∧
    (∀ b, e = .peer b → b = 0x43#8 ∨ b = 0x15#8 → s.ctrl.cancel = false → s.env.writeFails = false → s.xmK = 0#32 →
      s.xmTotal = 0#32 →
      step s = .next (State.waiting { s.wrote with
        turns := rest
        tx := s.tx ++ [0x04#8]
        xmStat := ⟨.eot, b == 0x43#8, s.xmStat.blk, 0#8⟩ } .xmEot))

/-- The response to a packet (R199 to R203, R206): `ACK` advances, `CAN` aborts, and `NAK`, any other byte and a timeout
retransmit the same packet until `max(1, MAXR + XM_FIRST_EXTRA)` transmissions have failed; a failing `write`, of the same
packet again, of the next packet or of the `EOT`, aborts. -/
def Obligations.XmPacketResponse : Prop :=
  ∀ (s : State) (p : List Byte) (e : Turn) (rest : List Turn) (n limit : Nat),
    s.cont = some .xmPacket → s.rxq = [] → s.turns = e :: rest → holdOf rest = none →
    n = (s.xmTotal.toNat + 1023) / 1024 → s.xmK.toNat < n → s.pbuf.shows s.xmBase.toNat s.xmTotal.toNat p →
    limit = max 1 (s.xmCfg.maxr.toNat + if s.params.xmFirstExtra then 1 else 0) →
    (e = .peer 0x18#8 →
      step s = .next (State.faulted { s with turns := rest, xmStat := { s.xmStat with state := .aborted } } 0x0B#8 s.xmK)) ∧
    (e = .timeout ∨ (∃ r, e = .peer r ∧ r ≠ 0x06#8 ∧ r ≠ 0x18#8) →
      (limit ≤ s.xmStat.retry.toNat + 1 →
        step s = .next (State.faulted { s with turns := rest, xmStat := { s.xmStat with state := .aborted } } 0x0C#8
          s.xmK)) ∧
      (s.xmStat.retry.toNat + 1 < limit → s.ctrl.cancel = false → s.env.writeFails = false →
        step s = .next { s.wrote with
          turns := rest
          tx := s.tx ++ xmPacket p s.xmCfg.pad s.xmStat.mode s.xmK.toNat
          xmStat := { s.xmStat with
            blk := BitVec.ofNat 8 (s.xmK.toNat + 1)
            retry := BitVec.ofNat 8 (s.xmStat.retry.toNat + 1) } }) ∧
      (s.xmStat.retry.toNat + 1 < limit → s.ctrl.cancel = false → s.env.writeFails = true →
        step s = .next (State.faulted { s.wrote with
          turns := rest
          xmStat := { s.xmStat with
            state := .aborted
            blk := BitVec.ofNat 8 (s.xmK.toNat + 1)
            retry := BitVec.ofNat 8 (s.xmStat.retry.toNat + 1) } } 0x02#8 0#32))) ∧
    (e = .peer 0x06#8 → s.ctrl.cancel = false → s.env.writeFails = false →
      (s.xmK.toNat + 1 < n →
        step s = .next { s.wrote with
          turns := rest
          xmK := BitVec.ofNat 32 (s.xmK.toNat + 1)
          xmSent := BitVec.ofNat 32 ((s.xmK.toNat + 1) * 1024)
          evt := s.evt ++ [.progress (BitVec.ofNat 32 ((s.xmK.toNat + 1) * 1024)) s.xmTotal
            (BitVec.ofNat 32 (s.xmK.toNat + 1)) (BitVec.ofNat 32 (s.xmK.toNat * 1024))]
          tx := s.tx ++ xmPacket p s.xmCfg.pad s.xmStat.mode (s.xmK.toNat + 1)
          xmStat := { s.xmStat with blk := BitVec.ofNat 8 (s.xmK.toNat + 2), retry := 0#8 } }) ∧
      (s.xmK.toNat + 1 = n →
        step s = .next (State.waiting { s.wrote with
          turns := rest
          xmK := BitVec.ofNat 32 n
          xmSent := s.xmTotal
          evt := s.evt ++ [.progress s.xmTotal s.xmTotal (BitVec.ofNat 32 n) (BitVec.ofNat 32 (s.xmK.toNat * 1024))]
          tx := s.tx ++ [0x04#8]
          xmStat := { s.xmStat with state := .eot, retry := 0#8 } } .xmEot))) ∧
    (e = .peer 0x06#8 → s.ctrl.cancel = false → s.env.writeFails = true →
      (s.xmK.toNat + 1 < n →
        step s = .next (State.faulted { s.wrote with
          turns := rest
          xmK := BitVec.ofNat 32 (s.xmK.toNat + 1)
          xmSent := BitVec.ofNat 32 ((s.xmK.toNat + 1) * 1024)
          evt := s.evt ++ [.progress (BitVec.ofNat 32 ((s.xmK.toNat + 1) * 1024)) s.xmTotal
            (BitVec.ofNat 32 (s.xmK.toNat + 1)) (BitVec.ofNat 32 (s.xmK.toNat * 1024))]
          xmStat := { s.xmStat with
            state := .aborted
            blk := BitVec.ofNat 8 (s.xmK.toNat + 2)
            retry := 0#8 } } 0x02#8 0#32)) ∧
      (s.xmK.toNat + 1 = n →
        step s = .next (State.faulted { s.wrote with
          turns := rest
          xmK := BitVec.ofNat 32 n
          xmSent := s.xmTotal
          evt := s.evt ++ [.progress s.xmTotal s.xmTotal (BitVec.ofNat 32 n) (BitVec.ofNat 32 (s.xmK.toNat * 1024))]
          xmStat := { s.xmStat with state := .aborted, retry := 0#8 } } 0x02#8 0#32)))

/-- The response to an `EOT` (R204, R201, R202): `ACK` ends the transfer, `CAN` aborts, anything else and a timeout send the
`EOT` again until the limit is reached. -/
def Obligations.XmEotResponse : Prop :=
  ∀ (s : State) (e : Turn) (rest : List Turn) (n limit : Nat),
    s.cont = some .xmEot → s.rxq = [] → s.turns = e :: rest → holdOf rest = none →
    n = (s.xmTotal.toNat + 1023) / 1024 →
    limit = max 1 (s.xmCfg.maxr.toNat + if s.params.xmFirstExtra then 1 else 0) →
    (e = .peer 0x06#8 →
      step s = .next (State.succeeded { s with
        turns := rest
        xmStat := { s.xmStat with state := .done }
        x := { s.x with x6 := BitVec.ofNat 32 n, x7 := if s.xmStat.mode then 1#32 else 0#32 } })) ∧
    (e = .peer 0x18#8 →
      step s = .next (State.faulted { s with turns := rest, xmStat := { s.xmStat with state := .aborted } } 0x0B#8 s.xmK)) ∧
    (e = .timeout ∨ (∃ r, e = .peer r ∧ r ≠ 0x06#8 ∧ r ≠ 0x18#8) →
      (limit ≤ s.xmStat.retry.toNat + 1 →
        step s = .next (State.faulted { s with turns := rest, xmStat := { s.xmStat with state := .aborted } } 0x0C#8
          s.xmK)) ∧
      (s.xmStat.retry.toNat + 1 < limit → s.ctrl.cancel = false → s.env.writeFails = false →
        step s = .next { s.wrote with
          turns := rest
          tx := s.tx ++ [0x04#8]
          xmStat := { s.xmStat with retry := BitVec.ofNat 8 (s.xmStat.retry.toNat + 1) } }) ∧
      (s.xmStat.retry.toNat + 1 < limit → s.ctrl.cancel = false → s.env.writeFails = true →
        step s = .next (State.faulted { s.wrote with
          turns := rest
          xmStat := { s.xmStat with
            state := .aborted
            retry := BitVec.ofNat 8 (s.xmStat.retry.toNat + 1) } } 0x02#8 0#32)))

/-- Cancellation at each checkpoint (R337, R199, R204, R206, R238, R381): the log event is emitted, nothing is transmitted, the
state register takes its aborted value and the fault is `Cancelled`. So before the first transmission of `XM.SEND`, the
initiation byte consumed, whether it was queued or arrives; after an `ACK`, the packet counting as acknowledged; before every
retransmission of a packet or of the `EOT`; and before the first and every later attempt of `BR.NEG.BK`. -/
def Obligations.CancelledAtCheckpoint : Prop :=
  ∀ s : State, s.ctrl.cancel = true →
    (∀ (b : Byte) (q : List Byte), s.ctrl.opened = true → fits s.x.x0 s.x.x1.toNat → s.rxq = b :: q → s.unheld →
      b = 0x43#8 ∨ b = 0x15#8 →
      exec .xmSend s = .next (State.faulted { s with
        xmBase := s.x.x0
        xmTotal := s.x.x1
        xmK := 0#32
        xmSent := 0#32
        xmStat := ⟨.aborted, b == 0x43#8, 0#8, 0#8⟩
        rxq := q
        evt := s.evt ++ [.log .warning .cancelled] } 0x09#8 0#32)) ∧
    (∀ b rest, s.cont = some .xmInit → s.rxq = [] → s.turns = .peer b :: rest → holdOf rest = none →
      b = 0x43#8 ∨ b = 0x15#8 →
      step s = .next (State.faulted { s with
        turns := rest
        xmStat := ⟨.aborted, b == 0x43#8, s.xmStat.blk, 0#8⟩
        evt := s.evt ++ [.log .warning .cancelled] } 0x09#8 0#32)) ∧
    (∀ rest, s.cont = some .xmPacket → s.rxq = [] → s.turns = .peer 0x06#8 :: rest → holdOf rest = none →
      s.xmK.toNat < (s.xmTotal.toNat + 1023) / 1024 →
      step s = .next (State.faulted { s with
        turns := rest
        xmK := BitVec.ofNat 32 (s.xmK.toNat + 1)
        xmSent := BitVec.ofNat 32 (min ((s.xmK.toNat + 1) * 1024) s.xmTotal.toNat)
        xmStat := { s.xmStat with state := .aborted, retry := 0#8 }
        evt := s.evt ++ [.progress (BitVec.ofNat 32 (min ((s.xmK.toNat + 1) * 1024) s.xmTotal.toNat)) s.xmTotal
          (BitVec.ofNat 32 (s.xmK.toNat + 1)) (BitVec.ofNat 32 (s.xmK.toNat * 1024)), .log .warning .cancelled] }
        0x09#8 0#32)) ∧
    (∀ e rest limit, s.cont = some .xmPacket ∨ s.cont = some .xmEot → s.rxq = [] → s.turns = e :: rest →
      e = .timeout ∨ (holdOf rest = none ∧ ∃ r, e = .peer r ∧ r ≠ 0x06#8 ∧ r ≠ 0x18#8) →
      limit = max 1 (s.xmCfg.maxr.toNat + if s.params.xmFirstExtra then 1 else 0) →
      s.xmStat.retry.toNat + 1 < limit →
      step s = .next (State.faulted { s with
        turns := rest
        xmStat := { s.xmStat with state := .aborted, retry := BitVec.ofNat 8 (s.xmStat.retry.toNat + 1) }
        evt := s.evt ++ [.log .warning .cancelled] } 0x09#8 0#32)) ∧
    (s.ctrl.opened = true → fits s.x.x0 s.x.x1.toNat → fits s.x.x3 s.x.x4.toNat → s.x.x2 ≠ 0#32 →
      exec .brNegBk s = .next (State.faulted { s with
        brTarget := s.x.x2
        brStat := ⟨.failed, 0#5⟩
        evt := s.evt ++ [.log .warning .cancelled] } 0x09#8 0#32)) ∧
    (∀ c rest limit, s.cont = some (.bkResp c) → s.rxq.length < s.x.x4.toNat → s.turns = .timeout :: rest →
      limit = max 1 (10 + if s.params.brFirstExtra then 1 else 0) → s.brStat.attempt.toNat < limit →
      step s = .next (State.faulted { State.rateSet { s with turns := rest } 115200#32 with
        brStat := { s.brStat with state := .failed }
        evt := s.evt ++ [.log .warning .cancelled] } 0x09#8 0#32))

/-! ### Baud-rate negotiation -/

/-- R234, with the draw of R233: `BR.SET` sets any rate but 0 and touches no negotiation register; a transport that keeps
the read stream leaves `RXQ`, one that does not leaves what it draws. -/
def Obligations.BrSetRate : Prop :=
  decode 0x6000#16 = .ok .brSet ∧
  ∀ s : State,
    (s.ctrl.opened = false → exec .brSet s = .next (s.faulted 0x14#8 0#32)) ∧
    (s.ctrl.opened = true → s.x.x2 = 0#32 → exec .brSet s = .next (s.faulted 0x13#8 2#32)) ∧
    (s.ctrl.opened = true → s.x.x2 ≠ 0#32 →
      exec .brSet s = .next (s.rateSet s.x.x2).succeeded ∧
      (∀ more, s.env.rxqs = .keep :: more → (s.rateSet s.x.x2).rxq = s.rxq) ∧
      (∀ q more, s.env.rxqs = .replace q :: more → (s.rateSet s.x.x2).rxq = q))

/-- `BR.NEG.BK` where the first attempt is answered (R237, R238): the command goes out at the old rate, the rate changes, and
the first `x[4]` bytes of what the environment then has queued are stored at `x[3]`. -/
def Obligations.BkFirstAttemptSucceeds : Prop :=
  decode 0x6100#16 = .ok .brNegBk ∧
  ∀ (s r : State) (c : List Byte), s.ctrl.opened = true → s.ctrl.cancel = false → fits s.x.x0 s.x.x1.toNat →
    s.pbuf.shows s.x.x0.toNat s.x.x1.toNat c → fits s.x.x3 s.x.x4.toNat → s.x.x2 ≠ 0#32 → s.unheld →
    (s.x.x1 = 0#32 ∧ r = s.rateSet s.x.x2 ∨ s.x.x1 ≠ 0#32 ∧ s.env.writeFails = false ∧ r = s.wrote.rateSet s.x.x2) →
    s.x.x4.toNat ≤ r.rxq.length →
    ∃ m, m.holds s.pbuf s.x.x3.toNat (r.rxq.take s.x.x4.toNat) ∧
      exec .brNegBk s = .next (State.succeeded { r with
        pbuf := m
        rxq := r.rxq.drop s.x.x4.toNat
        tx := s.tx ++ c
        brTarget := s.x.x2
        brStat := ⟨.done, 1#5⟩
        x := { s.x with x6 := 1#32 } })

/-- The checks of `BR.NEG.BK` in their order, before any change (R237), and a first command that cannot be written (R239). -/
def Obligations.BkChecks : Prop :=
  ∀ s : State,
    (s.ctrl.opened = false → exec .brNegBk s = .next (s.faulted 0x14#8 0#32)) ∧
    (s.ctrl.opened = true → ¬ fits s.x.x0 s.x.x1.toNat → exec .brNegBk s = .next (s.faulted 0x11#8 s.x.x0)) ∧
    (s.ctrl.opened = true → fits s.x.x0 s.x.x1.toNat → ¬ fits s.x.x3 s.x.x4.toNat →
      exec .brNegBk s = .next (s.faulted 0x11#8 s.x.x3)) ∧
    (s.ctrl.opened = true → fits s.x.x0 s.x.x1.toNat → fits s.x.x3 s.x.x4.toNat → s.x.x2 = 0#32 →
      exec .brNegBk s = .next (s.faulted 0x13#8 2#32)) ∧
    (s.ctrl.opened = true → fits s.x.x0 s.x.x1.toNat → fits s.x.x3 s.x.x4.toNat → s.x.x2 ≠ 0#32 → s.x.x1 ≠ 0#32 →
      s.ctrl.cancel = false → s.env.writeFails = true →
      exec .brNegBk s = .next (State.faulted { s.wrote with brTarget := s.x.x2, brStat := ⟨.failed, 1#5⟩ } 0x02#8 0#32))

/-- The attempt loop of `BR.NEG.BK` (R238, R239, R250). After its command and `Delay` the transport is set to the target rate;
the response, queued or completed by the peer, is stored and ends the operation. Without it the transport reverts to 115 200,
and the next attempt sends the command again (an empty one sends nothing, R237), unless `max(1, 10 + BR_FIRST_EXTRA)` attempts
have been made or the cancel flag is seen; a later command that cannot be written fails the negotiation at 115 200. -/
def Obligations.BkAttemptLoop : Prop :=
  ∀ (s u r w v : State) (c : List Byte),
    (s.cont = some (.bkFlush c) → s.agentMoved u → r = u.rateSet s.brTarget →
      (r.rxq.length < s.x.x4.toNat →
        step s = .next (State.waiting { r with brStat := { s.brStat with state := .switched } } (.bkResp c))) ∧
      (s.x.x4.toNat ≤ r.rxq.length → fits s.x.x3 s.x.x4.toNat →
        ∃ m, m.holds s.pbuf s.x.x3.toNat (r.rxq.take s.x.x4.toNat) ∧
          step s = .next (State.succeeded { r with
            pbuf := m
            rxq := r.rxq.drop s.x.x4.toNat
            brStat := { s.brStat with state := .done }
            x := { s.x with x6 := s.brStat.attempt.setWidth 32 } }))) ∧
    (s.cont = some (.bkResp c) → s.agentMoved u → s.x.x4.toNat ≤ u.rxq.length → fits s.x.x3 s.x.x4.toNat →
      ∃ m, m.holds s.pbuf s.x.x3.toNat (u.rxq.take s.x.x4.toNat) ∧
        step s = .next (State.succeeded { u with
          pbuf := m
          rxq := u.rxq.drop s.x.x4.toNat
          brStat := { s.brStat with state := .done }
          x := { s.x with x6 := s.brStat.attempt.setWidth 32 } })) ∧
    (∀ rest limit, s.cont = some (.bkResp c) → s.rxq.length < s.x.x4.toNat → s.turns = .timeout :: rest →
      r = State.rateSet { s with turns := rest } 115200#32 →
      limit = max 1 (10 + if s.params.brFirstExtra then 1 else 0) →
      (limit ≤ s.brStat.attempt.toNat →
        step s = .next (State.faulted { r with brStat := { s.brStat with state := .failed } } 0x0D#8
          (s.brStat.attempt.setWidth 32))) ∧
      (s.brStat.attempt.toNat < limit → s.ctrl.cancel = true →
        step s = .next (State.faulted { r with
          brStat := { s.brStat with state := .failed }
          evt := s.evt ++ [.log .warning .cancelled] } 0x09#8 0#32)) ∧
      (s.brStat.attempt.toNat < limit → s.ctrl.cancel = false → c = [] ∨ r.env.writeFails = false →
        w = { (if c = [] then r else r.wrote) with
          tx := s.tx ++ c
          brStat := ⟨.cmdSent, BitVec.ofNat 5 (s.brStat.attempt.toNat + 1)⟩ } →
        (holdOf rest = some 0 → step s = .next (w.waiting (.bkFlush c))) ∧
        (holdOf rest = none → v = w.rateSet s.brTarget → v.rxq.length < s.x.x4.toNat →
          step s = .next (State.waiting { v with brStat := { w.brStat with state := .switched } } (.bkResp c)))) ∧
      (s.brStat.attempt.toNat < limit → s.ctrl.cancel = false → c ≠ [] → r.env.writeFails = true →
        step s = .next (State.faulted { r.wrote with
          brStat := ⟨.failed, BitVec.ofNat 5 (s.brStat.attempt.toNat + 1)⟩ } 0x02#8 0#32)))

/-- `BR.NEG.ESP` where the response is well-formed with status 0 (R243, R244): the command of R243 is transmitted, with the
old rate as its second word for a stub and zero for the ROM; the decoded frame, queued before or completed by the peer's next
byte, is stored at `x[3]`, and the rate changes. -/
def Obligations.EspNegotiates : Prop :=
  decode 0x6200#16 = .ok .brNegEsp ∧
  (∀ (s r : State) (g d q : List Byte) (v second : Word) (kind : Byte) (f : List Byte),
    s.ctrl.opened = true → s.x.x2 ≠ 0#32 → s.env.writeFails = false → s.unheld → 0xC0#8 ∉ g → d.length ≤ 65533 →
    f = [0x01#8, 0x0F#8] ++ le16 (BitVec.ofNat 16 (d.length + 2)) ++ le32 v ++ d ++ [0x00#8, kind] →
    s.rxq = g ++ slipEncode f ++ q → fits s.x.x3 f.length →
    second = (if s.ctrl.stub then s.baudCur else 0#32) →
    r = State.rateSet { s.wrote with rxq := q } s.x.x2 →
    ∃ m, m.holds s.pbuf s.x.x3.toNat f ∧
      exec .brNegEsp s = .next (State.succeeded { r with
        pbuf := m
        tx := s.tx ++ slipEncode ([0x00#8, 0x0F#8, 0x08#8, 0x00#8, 0x00#8, 0x00#8, 0x00#8, 0x00#8] ++ le32 s.x.x2
          ++ le32 second)
        brTarget := s.x.x2
        brStat := ⟨.done, 1#5⟩
        x := { s.x with x6 := v, x7 := BitVec.ofNat 32 f.length } })) ∧
  ∀ (s u r : State) (g d q : List Byte) (v : Word) (kind : Byte) (f : List Byte),
    s.cont = some .espResp → s.agentMoved u → 0xC0#8 ∉ g → d.length ≤ 65533 →
    f = [0x01#8, 0x0F#8] ++ le16 (BitVec.ofNat 16 (d.length + 2)) ++ le32 v ++ d ++ [0x00#8, kind] →
    u.rxq = g ++ slipEncode f ++ q → fits s.x.x3 f.length → r = State.rateSet { u with rxq := q } s.x.x2 →
    ∃ m, m.holds s.pbuf s.x.x3.toNat f ∧
      step s = .next (State.succeeded { r with
        pbuf := m
        brStat := { s.brStat with state := .done }
        x := { s.x with x6 := v, x7 := BitVec.ofNat 32 f.length } })

/-- The faults of `BR.NEG.ESP` (R244, R239): before any change, or after the command was sent with the state `FAILED` and the
rate as it was: timeout, and, queued before or completed by the peer's next byte, a bad escape (R282), a malformed response by
the first check of R289 that fails, a status that is not zero, a frame that does not fit. -/
def Obligations.EspFaults : Prop :=
  ∀ s : State,
    (s.ctrl.opened = false → exec .brNegEsp s = .next (s.faulted 0x14#8 0#32)) ∧
    (s.ctrl.opened = true → s.x.x2 = 0#32 → exec .brNegEsp s = .next (s.faulted 0x13#8 2#32)) ∧
    (s.ctrl.opened = true → s.x.x2 ≠ 0#32 → s.env.writeFails = true →
      exec .brNegEsp s = .next (State.faulted { s.wrote with brTarget := s.x.x2, brStat := ⟨.failed, 1#5⟩ } 0x02#8 0#32)) ∧
    (∀ rest, s.cont = some .espResp → slipScan s.rxq = .incomplete → s.turns = .timeout :: rest →
      step s = .next (State.faulted { s with turns := rest, brStat := { s.brStat with state := .failed } } 0x0E#8 0#32)) ∧
    (∀ (u : State) (g d q f : List Byte) (v : Word) (st kind : Byte), s.cont = some .espResp → s.agentMoved u → 0xC0#8 ∉ g →
      d.length ≤ 65533 →
      f = [0x01#8, 0x0F#8] ++ le16 (BitVec.ofNat 16 (d.length + 2)) ++ le32 v ++ d ++ [st, kind] →
      u.rxq = g ++ slipEncode f ++ q →
      (st ≠ 0x00#8 → step s = .next (State.faulted { u with rxq := q, brStat := { s.brStat with state := .failed } } 0x05#8
        (BitVec.ofNat 32 (st.toNat + 256 * kind.toNat)))) ∧
      (st = 0x00#8 → ¬ fits s.x.x3 f.length →
        step s = .next (State.faulted { u with rxq := q, brStat := { s.brStat with state := .failed } } 0x11#8 s.x.x3))) ∧
    (∀ (u : State) (x g q : List Byte) (b : Byte), s.cont = some .espResp → s.agentMoved u → 0xC0#8 ∉ g →
      b ≠ 0xDC#8 → b ≠ 0xDD#8 →
      u.rxq = g ++ [0xC0#8] ++ slipEscape x ++ [0xDB#8, b] ++ q →
      step s = .next (State.faulted { u with rxq := q, brStat := { s.brStat with state := .failed } } 0x04#8
        (BitVec.ofNat 32 (0x10000 + b.toNat)))) ∧
    (∀ (u : State) (g q f : List Byte) (len : Nat), s.cont = some .espResp → s.agentMoved u → 0xC0#8 ∉ g →
      u.rxq = g ++ slipEncode f ++ q → len = (f.getD 2 0#8).toNat + 256 * (f.getD 3 0#8).toNat →
      f.length < 10 ∨ f.getD 0 0#8 ≠ 0x01#8 ∨ f.getD 1 0#8 ≠ 0x0F#8 ∨ len ≠ f.length - 8 →
      step s = .next (State.faulted { u with rxq := q, brStat := { s.brStat with state := .failed } } 0x04#8
        (BitVec.ofNat 32 (
          if f.length < 10 then 3 * 2 ^ 16 + f.length
          else if f.getD 0 0#8 ≠ 0x01#8 then 4 * 2 ^ 16 + (f.getD 0 0#8).toNat
          else if f.getD 1 0#8 ≠ 0x0F#8 then 5 * 2 ^ 16 + (f.getD 1 0#8).toNat
          else 6 * 2 ^ 16 + len))))

/-- R246: `BR.NEG.WM` sends the `0x21` frame of command 0x31 at the old rate and then, after its delay, sets the new one; it
awaits no response. That the delay ends with the next turn taken is the model's (notes/assumptions/5.md, 14.md). -/
def Obligations.WmNegotiates : Prop :=
  decode 0x6300#16 = .ok .brNegWm ∧
  ∀ (s r : State) (body : List Byte), body = [0x31#8, 0x00#8, 0x00#8, 0x00#8] ++ le32 s.x.x2 →
    r = s.wrote.rateSet s.x.x2 →
    (s.ctrl.opened = false → exec .brNegWm s = .next (s.faulted 0x14#8 0#32)) ∧
    (s.ctrl.opened = true → s.x.x2 = 0#32 → exec .brNegWm s = .next (s.faulted 0x13#8 2#32)) ∧
    (s.ctrl.opened = true → s.x.x2 ≠ 0#32 → s.env.writeFails = true →
      exec .brNegWm s = .next (State.faulted { s.wrote with brTarget := s.x.x2, brStat := ⟨.failed, 1#5⟩ } 0x02#8 0#32)) ∧
    (s.ctrl.opened = true → s.x.x2 ≠ 0#32 → s.env.writeFails = false → s.unheld →
      exec .brNegWm s = .next (State.succeeded { r with
        tx := s.tx ++ ([0x21#8, 0x0A#8, 0x00#8] ++ le16 (crc16CcittFalse body) ++ body)
        brTarget := s.x.x2
        brStat := ⟨.done, 1#5⟩ })) ∧
    (∀ u, s.cont = some .wmSwitch → s.agentMoved u →
      step s = .next (State.succeeded { u.rateSet s.x.x2 with brStat := { s.brStat with state := .done } }))

/-! ### Frame codec -/

/-- R273, R283, R288, R297: the four operations that build one frame from a `PBUF` range and put it with one `write`; each
frame written out, with the checks in their order. -/
def Obligations.FrameOpsTransmit : Prop :=
  (∀ op : Byte, decode (0x70#8 ++ op) = .ok (.lpEnc op)) ∧ decode 0x7400#16 = .ok .slEnc ∧
  (∀ op : Byte, decode (0x76#8 ++ op) = .ok (.slCmd op)) ∧ decode 0x7C00#16 = .ok .w21Enc ∧
  (∀ op : Byte, Transmits (.lpEnc op) 65535 fun _ m =>
    [op, BitVec.ofNat 8 ((m.length % 256 + m.length / 256 + (m.map BitVec.toNat).sum) % 256), BitVec.ofNat 8 (m.length % 256),
      BitVec.ofNat 8 (m.length / 256)] ++ m) ∧
  Transmits .slEnc (2 ^ 24) (fun _ m => slipEncode m) ∧
  (∀ op : Byte, Transmits (.slCmd op) 65535 fun s m =>
    slipEncode ([0x00#8, op, BitVec.ofNat 8 (m.length % 256), BitVec.ofNat 8 (m.length / 256)] ++ le32 s.x.x2 ++ m)) ∧
  Transmits .w21Enc 65529 fun s m =>
    [0x21#8, BitVec.ofNat 8 ((m.length + 6) % 256), BitVec.ofNat 8 ((m.length + 6) / 256),
      (crc16 0xFFFF#16 (le32 s.x.x2 ++ m)).extractLsb' 0 8, (crc16 0xFFFF#16 (le32 s.x.x2 ++ m)).extractLsb' 8 8]
      ++ le32 s.x.x2 ++ m

/-- R281: each `C0` becomes `DB DC` and each `DB` becomes `DB DD`, between two `C0`; the length is that of the bytes, plus two,
plus one for each byte escaped. -/
def Obligations.SlipEncodeShape : Prop :=
  slipEscape [] = [] ∧
  (∀ (b : Byte) (x : List Byte), slipEscape (b :: x) = (if b = 0xC0#8 then [0xDB#8, 0xDC#8]
    else if b = 0xDB#8 then [0xDB#8, 0xDD#8] else [b]) ++ slipEscape x) ∧
  (∀ x : List Byte, slipEncode x = [0xC0#8] ++ slipEscape x ++ [0xC0#8]) ∧
  (∀ x : List Byte, (slipEncode x).length = x.length + 2 + (x.filter fun b => b == 0xC0#8 || b == 0xDB#8).length)

/-- R285: whatever precedes the frame without a `C0` and whatever follows it, scanning an encoded frame gives the bytes encoded
and uses exactly the frame; an escaped string holds no `C0`, and each `DB` in it is followed by `DC` or `DD`. -/
def Obligations.SlipRoundTrip : Prop :=
  (∀ x g r : List Byte, 0xC0#8 ∉ g → slipScan (g ++ slipEncode x ++ r) = .frame x (g.length + (slipEncode x).length)) ∧
  (∀ x : List Byte, 0xC0#8 ∉ slipEscape x) ∧
  (∀ (x a b : List Byte), slipEscape x = a ++ 0xDB#8 :: b → b.head? = some 0xDC#8 ∨ b.head? = some 0xDD#8)

/-- R284 with R282: `SL.DEC` skips what stands before the first `C0`, takes one frame and stores it, without waiting where it is
already complete; a bad escape consumes the queue through the offending byte; with no complete frame it waits, and a timeout
leaves the queue untouched; the frame, or the bad escape, that the peer's next byte completes ends it in the same way. That a bad
escape already queued ends `SL.DEC` without waiting, as a complete frame does, is the model's reading (notes/assumptions/5.md). -/
def Obligations.SlDecReceives : Prop :=
  decode 0x7500#16 = .ok .slDec ∧
  ∀ s : State,
    (s.ctrl.opened = false → exec .slDec s = .next (s.faulted 0x14#8 0#32)) ∧
    (∀ x g q : List Byte, s.ctrl.opened = true → 0xC0#8 ∉ g → s.rxq = g ++ slipEncode x ++ q →
      (fits s.x.x3 x.length → ∃ m, m.holds s.pbuf s.x.x3.toNat x ∧
        exec .slDec s = .next (State.succeeded { s with
          pbuf := m
          rxq := q
          x := { s.x with x6 := BitVec.ofNat 32 x.length } })) ∧
      (¬ fits s.x.x3 x.length → exec .slDec s = .next (State.faulted { s with rxq := q } 0x11#8 s.x.x3))) ∧
    (∀ (x g q : List Byte) (b : Byte), s.ctrl.opened = true → 0xC0#8 ∉ g → b ≠ 0xDC#8 → b ≠ 0xDD#8 →
      s.rxq = g ++ [0xC0#8] ++ slipEscape x ++ [0xDB#8, b] ++ q →
      exec .slDec s = .next (State.faulted { s with rxq := q } 0x04#8 (BitVec.ofNat 32 (0x10000 + b.toNat)))) ∧
    (s.ctrl.opened = true → slipScan s.rxq = .incomplete → exec .slDec s = .next (s.waiting .slDec)) ∧
    (∀ rest, s.cont = some .slDec → slipScan s.rxq = .incomplete → s.turns = .timeout :: rest →
      step s = .next (State.faulted { s with turns := rest } 0x0E#8 0#32)) ∧
    (∀ (u : State) (x g q : List Byte), s.cont = some .slDec → s.agentMoved u → 0xC0#8 ∉ g →
      u.rxq = g ++ slipEncode x ++ q →
      (fits s.x.x3 x.length → ∃ m, m.holds s.pbuf s.x.x3.toNat x ∧
        step s = .next (State.succeeded { u with
          pbuf := m
          rxq := q
          x := { s.x with x6 := BitVec.ofNat 32 x.length } })) ∧
      (¬ fits s.x.x3 x.length → step s = .next (State.faulted { u with rxq := q } 0x11#8 s.x.x3))) ∧
    (∀ (u : State) (x g q : List Byte) (b : Byte), s.cont = some .slDec → s.agentMoved u → 0xC0#8 ∉ g → b ≠ 0xDC#8 →
      b ≠ 0xDD#8 → u.rxq = g ++ [0xC0#8] ++ slipEscape x ++ [0xDB#8, b] ++ q →
      step s = .next (State.faulted { u with rxq := q } 0x04#8 (BitVec.ofNat 32 (0x10000 + b.toNat))))

/-- `LP.DEC` where the response comes (R270, R274 to R277): up to 500 `"PD"`, then `"OK"`, and with the `DATA` flag a two-byte
length, low byte first, and that many bytes, stored at `x[3]`; `x[6]` is the length and `x[7]` the number of polls. So with the
whole response queued, and so from each of its waits, what it awaits queued before or completed by the peer's next byte. -/
def Obligations.LpDecReceives : Prop :=
  decode 0x7100#16 = .ok (.lpDec 0#8) ∧ decode 0x7101#16 = .ok (.lpDec 1#8) ∧
  (∀ (s : State) (k : Nat) (d q : List Byte), s.ctrl.opened = true → s.unheld → k ≤ 500 →
    (s.rxq = (List.replicate k [0x50#8, 0x44#8]).flatten ++ [0x4F#8, 0x4B#8] ++ q →
      exec (.lpDec 0#8) s = .next (State.succeeded { s with
        rxq := q
        x := { s.x with x6 := 0#32, x7 := BitVec.ofNat 32 k } })) ∧
    (s.rxq = (List.replicate k [0x50#8, 0x44#8]).flatten ++ [0x4F#8, 0x4B#8, BitVec.ofNat 8 (d.length % 256),
        BitVec.ofNat 8 (d.length / 256)] ++ d ++ q → d.length ≤ 65535 → fits s.x.x3 d.length →
      ∃ m, m.holds s.pbuf s.x.x3.toNat d ∧
        exec (.lpDec 1#8) s = .next (State.succeeded { s with
          pbuf := m
          rxq := q
          x := { s.x with x6 := BitVec.ofNat 32 d.length, x7 := BitVec.ofNat 32 k } }))) ∧
  ∀ (s u : State) (k : Nat) (q : List Byte), s.agentMoved u →
    (s.cont = some (.lpPrefix false k) → u.rxq = 0x4F#8 :: 0x4B#8 :: q →
      step s = .next (State.succeeded { u with
        rxq := q
        x := { s.x with x6 := 0#32, x7 := BitVec.ofNat 32 k } })) ∧
    (s.cont = some (.lpPrefix true k) → u.rxq = 0x4F#8 :: 0x4B#8 :: q → q.length < 2 →
      step s = .next (State.waiting { u with rxq := q } (.lpLen k))) ∧
    (∀ d, s.cont = some (.lpPrefix d k) → u.rxq = 0x50#8 :: 0x44#8 :: q → k < 500 → q.length < 2 →
      step s = .next (State.waiting { u with rxq := q } (.lpPrefix d (k + 1)))) ∧
    (∀ lo hi : Byte, s.cont = some (.lpLen k) → u.rxq = lo :: hi :: q → q.length < lo.toNat + 256 * hi.toNat →
      fits s.x.x3 (lo.toNat + 256 * hi.toNat) →
      step s = .next (State.waiting { u with rxq := q } (.lpData k (lo.toNat + 256 * hi.toNat)))) ∧
    (s.cont = some (.lpLen k) → u.rxq = 0x00#8 :: 0x00#8 :: q → fits s.x.x3 0 →
      step s = .next (State.succeeded { u with
        rxq := q
        x := { s.x with x6 := 0#32, x7 := BitVec.ofNat 32 k } })) ∧
    (∀ n, s.cont = some (.lpData k n) → n ≤ u.rxq.length → fits s.x.x3 n →
      ∃ m, m.holds s.pbuf s.x.x3.toNat (u.rxq.take n) ∧
        step s = .next (State.succeeded { u with
          pbuf := m
          rxq := u.rxq.drop n
          x := { s.x with x6 := BitVec.ofNat 32 n, x7 := BitVec.ofNat 32 k } }))

/-- The faults of `LP.DEC` and what each leaves in `RXQ` (R275, R276, R278): `"FL"`, an unknown prefix, the 501st `"PD"`, a
length that does not fit, each queued before or completed by the peer's next byte, and a timeout in each of its three waits. -/
def Obligations.LpDecFaults : Prop :=
  ∀ (s : State) (k : Nat) (q : List Byte),
    (s.ctrl.opened = false → ∀ d, exec (.lpDec d) s = .next (s.faulted 0x14#8 0#32)) ∧
    (s.ctrl.opened = true → s.unheld →
      (k ≤ 500 → s.rxq = (List.replicate k [0x50#8, 0x44#8]).flatten ++ [0x46#8, 0x4C#8] ++ q →
        ∀ d, exec (.lpDec d) s = .next (State.faulted { s with rxq := q } 0x05#8 0x4C46#32)) ∧
      (∀ a b : Byte, k ≤ 500 → s.rxq = (List.replicate k [0x50#8, 0x44#8]).flatten ++ [a, b] ++ q →
        [a, b] ≠ [0x4F#8, 0x4B#8] → [a, b] ≠ [0x46#8, 0x4C#8] → [a, b] ≠ [0x50#8, 0x44#8] →
        ∀ d, exec (.lpDec d) s = .next (State.faulted { s with rxq := q } 0x04#8
          (BitVec.ofNat 32 (2 * 2 ^ 16 + a.toNat + 256 * b.toNat)))) ∧
      (s.rxq = (List.replicate 501 [0x50#8, 0x44#8]).flatten ++ q →
        ∀ d, exec (.lpDec d) s = .next (State.faulted { s with rxq := q } 0x0F#8 500#32)) ∧
      (∀ lo hi : Byte, k ≤ 500 → s.rxq = (List.replicate k [0x50#8, 0x44#8]).flatten ++ [0x4F#8, 0x4B#8, lo, hi] ++ q →
        ¬ fits s.x.x3 (lo.toNat + 256 * hi.toNat) →
        exec (.lpDec 1#8) s = .next (State.faulted { s with rxq := q } 0x11#8 s.x.x3))) ∧
    (∀ rest, s.turns = .timeout :: rest →
      (∀ d, s.cont = some (.lpPrefix d k) → s.rxq.length < 2 →
        step s = .next (State.faulted { s with turns := rest } 0x0E#8 2#32)) ∧
      (s.cont = some (.lpLen k) → s.rxq.length < 2 → step s = .next (State.faulted { s with turns := rest } 0x0E#8 2#32)) ∧
      (∀ n, s.cont = some (.lpData k n) → s.rxq.length < n →
        step s = .next (State.faulted { s with turns := rest } 0x0E#8 (BitVec.ofNat 32 n)))) ∧
    (∀ u, s.agentMoved u →
      (∀ d, s.cont = some (.lpPrefix d k) → u.rxq = 0x46#8 :: 0x4C#8 :: q →
        step s = .next (State.faulted { u with rxq := q } 0x05#8 0x4C46#32)) ∧
      (∀ (d : Bool) (a b : Byte), s.cont = some (.lpPrefix d k) → u.rxq = a :: b :: q → [a, b] ≠ [0x4F#8, 0x4B#8] →
        [a, b] ≠ [0x46#8, 0x4C#8] → [a, b] ≠ [0x50#8, 0x44#8] →
        step s = .next (State.faulted { u with rxq := q } 0x04#8
          (BitVec.ofNat 32 (2 * 2 ^ 16 + a.toNat + 256 * b.toNat)))) ∧
      (∀ d, s.cont = some (.lpPrefix d 500) → u.rxq = 0x50#8 :: 0x44#8 :: q →
        step s = .next (State.faulted { u with rxq := q } 0x0F#8 500#32)) ∧
      (∀ lo hi : Byte, s.cont = some (.lpLen k) → u.rxq = lo :: hi :: q → ¬ fits s.x.x3 (lo.toNat + 256 * hi.toNat) →
        step s = .next (State.faulted { u with rxq := q } 0x11#8 s.x.x3)))

/-- R290 with R289: `SL.RSP` takes the frame in `[x[0], x[0]+x[1])` apart; the first failing check is the one reported, and the
result is the value field and the count of data bytes. -/
def Obligations.SlRspTakesApart : Prop :=
  (∀ op : Byte, decode (0x77#8 ++ op) = .ok (.slRsp op)) ∧
  ∀ (s : State) (op : Byte) (f : List Byte) (n len : Nat), n = s.x.x1.toNat →
    (¬ fits s.x.x0 n → exec (.slRsp op) s = .next (s.faulted 0x11#8 s.x.x0)) ∧
    (fits s.x.x0 n → s.pbuf.shows s.x.x0.toNat n f → len = (f.getD 2 0#8).toNat + 256 * (f.getD 3 0#8).toNat →
      exec (.slRsp op) s = .next (
        if n < 10 then s.faulted 0x04#8 (BitVec.ofNat 32 (3 * 2 ^ 16 + n))
        else if f.getD 0 0#8 ≠ 0x01#8 then s.faulted 0x04#8 (BitVec.ofNat 32 (4 * 2 ^ 16 + (f.getD 0 0#8).toNat))
        else if f.getD 1 0#8 ≠ op then s.faulted 0x04#8 (BitVec.ofNat 32 (5 * 2 ^ 16 + (f.getD 1 0#8).toNat))
        else if len ≠ n - 8 then s.faulted 0x04#8 (BitVec.ofNat 32 (6 * 2 ^ 16 + len))
        else if f.getD (n - 2) 0#8 ≠ 0x00#8 then
          s.faulted 0x05#8 (BitVec.ofNat 32 ((f.getD (n - 2) 0#8).toNat + 256 * (f.getD (n - 1) 0#8).toNat))
        else State.succeeded { s with x := { s.x with
          x6 := BitVec.ofNat 32 ((f.getD 4 0#8).toNat + 2 ^ 8 * (f.getD 5 0#8).toNat + 2 ^ 16 * (f.getD 6 0#8).toNat
            + 2 ^ 24 * (f.getD 7 0#8).toNat)
          x7 := BitVec.ofNat 32 (n - 10) } }))

/-- R287: `SL.XSUM` is the XOR of the bytes of the range seeded with 0xEF, zero-extended; and the law of its concatenation. -/
def Obligations.SlXsumChecksum : Prop :=
  decode 0x7800#16 = .ok .slXsum ∧
  (∀ s : State,
    (¬ fits s.x.x0 s.x.x1.toNat → exec .slXsum s = .next (s.faulted 0x11#8 s.x.x0)) ∧
    (∀ m, fits s.x.x0 s.x.x1.toNat → s.pbuf.shows s.x.x0.toNat s.x.x1.toNat m →
      exec .slXsum s = .next (State.succeeded { s with x := { s.x with x6 := (espXsum m).setWidth 32 } }))) ∧
  espXsum [] = 0xEF#8 ∧ (∀ (m : List Byte) (b : Byte), espXsum (m ++ [b]) = espXsum m ^^^ b) ∧
  (∀ a b : List Byte, espXsum (a ++ b) = espXsum a ^^^ espXsum b ^^^ 0xEF#8)

/-- R298: `W21.CHK` checks the candidate in `[x[0], x[0]+x[1])`; the first failing check is the one reported, and the result is
the command type and the count of parameter bytes. -/
def Obligations.W21ChkChecks : Prop :=
  decode 0x7D00#16 = .ok .w21Chk ∧
  ∀ (s : State) (f : List Byte) (n len : Nat) (c : Half), n = s.x.x1.toNat →
    (¬ fits s.x.x0 n → exec .w21Chk s = .next (s.faulted 0x11#8 s.x.x0)) ∧
    (fits s.x.x0 n → s.pbuf.shows s.x.x0.toNat n f → len = (f.getD 1 0#8).toNat + 256 * (f.getD 2 0#8).toNat →
      c = crc16 0xFFFF#16 (f.drop 5) →
      exec .w21Chk s = .next (
        if n < 9 ∨ 65538 < n then s.faulted 0x04#8 (BitVec.ofNat 32 (7 * 2 ^ 16 + n % 2 ^ 16))
        else if f.getD 0 0#8 ≠ 0x21#8 then s.faulted 0x04#8 (BitVec.ofNat 32 (8 * 2 ^ 16 + (f.getD 0 0#8).toNat))
        else if len ≠ n - 3 then s.faulted 0x04#8 (BitVec.ofNat 32 (9 * 2 ^ 16 + len))
        else if (f.getD 3 0#8).toNat + 256 * (f.getD 4 0#8).toNat ≠ c.toNat then
          s.faulted 0x04#8 (BitVec.ofNat 32 (10 * 2 ^ 16 + c.toNat))
        else State.succeeded { s with x := { s.x with
          x6 := BitVec.ofNat 32 ((f.getD 5 0#8).toNat + 2 ^ 8 * (f.getD 6 0#8).toNat + 2 ^ 16 * (f.getD 7 0#8).toNat
            + 2 ^ 24 * (f.getD 8 0#8).toNat)
          x7 := BitVec.ofNat 32 (n - 9) } }))

/-- What `W21.ENC` sends a conforming receiver accepts (R298, corner cases): `W21.CHK` on the frame of any command and
parameters gives them back, and altering any one byte from the CRC field on fails the CRC check. -/
def Obligations.W21RoundTrip : Prop :=
  ∀ (s : State) (cmd : Word) (q : List Byte), q.length ≤ 65529 → s.x.x1.toNat = q.length + 9 →
    fits s.x.x0 s.x.x1.toNat →
    (s.pbuf.shows s.x.x0.toNat s.x.x1.toNat (w21Frame cmd q) →
      exec .w21Chk s = .next (State.succeeded { s with x := { s.x with
        x6 := cmd
        x7 := BitVec.ofNat 32 q.length } })) ∧
    (∀ (k : Nat) (v : Byte), 3 ≤ k → k < q.length + 9 → (w21Frame cmd q).getD k 0#8 ≠ v →
      s.pbuf.shows s.x.x0.toNat s.x.x1.toNat ((w21Frame cmd q).set k v) →
      ∃ c : Half, exec .w21Chk s = .next (s.faulted 0x04#8 (BitVec.ofNat 32 (10 * 2 ^ 16 + c.toNat))))

/-! ### The whole machine -/

/-- R64: nothing ever removes or changes a byte of `TX`; it only grows. -/
def Obligations.TxOnlyGrows : Prop :=
  ∀ s t : State, step s = .next t → ∃ more, t.tx = s.tx ++ more

/-- Who may change the flags of `CTRL` (R29 to R33, R343, R381): only the host sets `CANCEL`, and only `CTX.OPEN` clears it and
the sticky `FAULT`; `FAULT` is set only where an operation, or an illegal word, ends with a fault; only the host sets `STUB`, and
only the host and `CTX.OPEN` clear it; `OPEN` is set by `CTX.OPEN` alone. A host's write of the whole of `CTRL` is the model's
reading (notes/assumptions/10.md). -/
def Obligations.ControlFlagOwners : Prop :=
  ∀ s t : State, step s = .next t →
    (s.ctrl.cancel = true → t.ctrl.cancel = false → ∃ rest, s.presents 0x0100#16 rest) ∧
    (s.ctrl.cancel = false → t.ctrl.cancel = true →
      ∃ rest, s.turns = .host (.cancel true) :: rest ∨ ∃ v, v.getLsbD 0 = true ∧ s.turns = .host (.put 0x02 v) :: rest) ∧
    (s.ctrl.fault = true → t.ctrl.fault = false → ∃ rest, s.presents 0x0100#16 rest) ∧
    (s.ctrl.fault = false → t.ctrl.fault = true → t.status ≠ 0x00#8 ∧ t.ctrl.busy = false ∧ t.cont = none ∧
      (s.cont.isSome = true ∨ ∃ w rest, s.presents w rest)) ∧
    (s.ctrl.stub = true → t.ctrl.stub = false → s.ctrl.busy = false ∧
      ∃ rest, s.turns = .host (.stub false) :: rest ∨ s.presents 0x0100#16 rest ∨
        ∃ v, v.getLsbD 1 = false ∧ s.turns = .host (.put 0x02 v) :: rest) ∧
    (s.ctrl.stub = false → t.ctrl.stub = true →
      ∃ rest, s.turns = .host (.stub true) :: rest ∨ ∃ v, v.getLsbD 1 = true ∧ s.turns = .host (.put 0x02 v) :: rest) ∧
    (s.ctrl.opened = false → t.ctrl.opened = true → ∃ rest, s.presents 0x0100#16 rest) ∧
    (s.ctrl.opened = true → t.ctrl.opened = false → ∃ rest, s.presents 0x0100#16 rest ∨ s.presents 0x0200#16 rest)

/-- How an operation ends (R343, R21): from its acceptance, or from a suspension point on any other agent's turn, either it
has ended, successful with `STATUS = 0` and `INFO = 0` or with a fault, the sticky bit set and the operand registers as they
were; or it is still suspended, `STATUS`, `INFO` and the operand registers as they were. -/
def Obligations.OperationsEndOneWay : Prop :=
  (∀ (i : Instr) (s t : State), s.ctrl.busy = true → exec i s = .next t →
    (t.ctrl.busy = false ∧ t.opcur = none ∧ t.cont = none ∧
      (t.status = 0x00#8 ∧ t.info = 0#32 ∨ t.status ≠ 0x00#8 ∧ t.ctrl.fault = true ∧ t.x = s.x)) ∨
    (t.ctrl.busy = true ∧ t.opcur = s.opcur ∧ t.cont.isSome = true ∧ t.status = s.status ∧ t.info = s.info ∧
      t.ctrl.fault = s.ctrl.fault ∧ t.x = s.x)) ∧
  (∀ s t : State, s.ctrl.busy = true → s.cont.isSome = true → step s = .next t →
    (t.ctrl.busy = false ∧ t.opcur = none ∧ t.cont = none ∧
      (t.status = 0x00#8 ∧ t.info = 0#32 ∨ t.status ≠ 0x00#8 ∧ t.ctrl.fault = true ∧ t.x = s.x)) ∨
    (t.ctrl.busy = true ∧ t.opcur = s.opcur ∧ t.cont.isSome = true ∧ t.status = s.status ∧ t.info = s.info ∧
      t.ctrl.fault = s.ctrl.fault ∧ t.x = s.x)) ∧
  (∀ (i : Instr) (s t : State), exec i s = .next t → t.x.x0 = s.x.x0 ∧ t.x.x1 = s.x.x1 ∧ t.x.x2 = s.x.x2 ∧
    t.x.x3 = s.x.x3 ∧ t.x.x4 = s.x.x4 ∧ t.x.x5 = s.x.x5)

/-- R333: an operation that ends with a fault, at its acceptance or later from a suspension point, ends with one of the codes
that the table gives it. -/
def Obligations.FaultCodesByOperation : Prop :=
  (∀ (i : Instr) (s t : State), exec i s = .next t → t.cont = none → t.status = 0x00#8 ∨ t.status ∈ faultCodes i) ∧
  (∀ (s t : State) (c : Cont), s.Inv → s.cont = some c → step s = .next t → t.cont = none →
    t.status = 0x00#8 ∨ t.status ∈ faultCodes c.instr)

/-- Which operations write which registers and memory (R34 to R38, R43, R46, R47, R50, R64, R65): every other operation leaves
them as they are, `CTX.OPEN` and `CTX.CLOSE` the units among them (R36). So from its acceptance, and so when a suspended
operation, the one its continuation belongs to, goes on in a step of the machine. -/
def Obligations.RegistersWrittenOnlyBy : Prop :=
  ∀ (i : Instr) (s t : State),
    exec i s = .next t ∨ (s.Inv ∧ (∃ c, s.cont = some c ∧ i = c.instr) ∧ step s = .next t) →
    (i ∉ [.c16Initf, .c16Initx, .c16Updm] → (∀ b, i ≠ .c16Updb b) → t.crc16 = s.crc16) ∧
    (i ∉ [.c32Init, .c32Updm] → (∀ b, i ≠ .c32Updb b) → t.crc32 = s.crc32) ∧
    (i ∉ [.md5Init, .md5Updm, .md5Fin] → (∀ b, i ≠ .md5Updb b) → t.md5 = s.md5) ∧
    (i ∉ [.shaInit, .shaUpdm, .shaFin] → (∀ b, i ≠ .shaUpdb b) → t.sha = s.sha) ∧
    (i ∉ [.c16Initf, .c16Initx, .c32Init, .md5Init, .md5Fin, .shaInit, .shaFin] → t.valid = s.valid) ∧
    (i ∉ [.ctxOpen, .brSet, .brNegBk, .brNegEsp, .brNegWm] → t.baudCur = s.baudCur) ∧
    (i ∉ [.ctxOpen, .brNegBk, .brNegEsp, .brNegWm] → t.brStat = s.brStat ∧ t.brTarget = s.brTarget) ∧
    (i ≠ .ctxOpen → (∀ b, i ≠ .xmPad b ∧ i ≠ .xmMaxr b) → t.xmCfg = s.xmCfg) ∧
    (i ∉ [.ctxOpen, .xmSend] → t.xmStat = s.xmStat ∧ t.xmBase = s.xmBase ∧ t.xmTotal = s.xmTotal ∧ t.xmK = s.xmK ∧
      t.xmSent = s.xmSent) ∧
    (i ∉ [.ctxOpen, .xmSend, .brNegBk] → t.evt = s.evt) ∧
    (i ∉ [.rxRaw, .md5Fin, .md5Calc, .shaFin, .shaCalc, .brNegBk, .brNegEsp, .slDec] → (∀ d, i ≠ .lpDec d) →
      t.pbuf = s.pbuf) ∧
    (i ∉ [.txRaw, .xmSend, .brNegBk, .brNegEsp, .brNegWm, .slEnc, .w21Enc] → (∀ b, i ≠ .lpEnc b ∧ i ≠ .slCmd b) →
      t.tx = s.tx)

/-- R30: but for `XM.SEND` and `BR.NEG.BK`, whose checkpoints read it, and `CTX.OPEN`, which clears it, what an operation does
does not depend on the cancel flag: neither from its acceptance nor from a suspension point, on any turn but those of the host
that read or write `CTRL`. -/
def Obligations.CancelReadOnlyAtCheckpoints : Prop :=
  (∀ (i : Instr) (s : State) (c : Bool), i ∉ [.ctxOpen, .xmSend, .brNegBk] →
    ∃ t, exec i s = .next t ∧
      exec i { s with ctrl := { s.ctrl with cancel := c } } = .next { t with ctrl := { t.ctrl with cancel := c } }) ∧
  (∀ (s : State) (k : Cont) (c : Bool), s.Inv → s.cont = some k → k.instr ∉ [.xmSend, .brNegBk] →
    (∀ rest, s.turns ≠ .host (.get 0x02) :: rest ∧ (∀ b, s.turns ≠ .host (.cancel b) :: rest) ∧
      (∀ v, s.turns ≠ .host (.put 0x02 v) :: rest)) →
    ∃ t, step s = .next t ∧
      step { s with ctrl := { s.ctrl with cancel := c } } = .next { t with ctrl := { t.ctrl with cancel := c } })

/-- R32: with no context open, the operations that touch the transport end with `NoContext` and no other change. -/
def Obligations.NoContextFault : Prop :=
  ∀ (s : State) (i : Instr) (op : Byte), s.ctrl.opened = false →
    i ∈ [.txRaw, .rxRaw, .rxDrain, .xmSend, .brSet, .brNegBk, .brNegEsp, .brNegWm, .lpEnc op, .lpDec op, .slEnc, .slDec,
      .slCmd op, .w21Enc] →
    exec i s = .next (s.faulted 0x14#8 0#32)

/-- What the turns of the other agents do to an idle block and at a wait, and where the block can rest (R18, R25, R63, R199, R338,
R349, R351). The condition of each wait is spelled out; a `Delay` has none. The peer's byte goes to an idle block and to a wait it
does not complete with no other effect; a `Timeout` turn at an idle block, in a `Delay` or at a wait whose condition holds only
leaves the schedule (notes/assumptions/7.md), and with no turn left an idle block and a wait whose condition does not hold stay as
they are. Whatever a suspended operation awaits, and though it is already there, the peer and the host may step while the block
rests: the byte is queued, the flag is set, the register is read, and nothing else changes. A run that the schedule bounds by `n`
passes exactly `n` suspension points, where their conditions hold. So `XM.SEND` rests after packet 0 with its `ACK` queued, a
`CANCEL` set there is seen at the next checkpoint, after that `ACK`; and `LP.DEC` rests in its delay. How the schedule says so
(`hold`) is the model's (notes/assumptions/5.md), and so is that a byte sent with no context open is queued
(notes/assumptions/18.md). -/
def Obligations.TurnsAtIdleAndAtWaits : Prop :=
  (∀ s : State, (s.contReady .rxRaw = true ↔ s.x.x1.toNat ≤ s.rxq.length) ∧
    (∀ c ∈ [.xmInit, .xmPacket, .xmEot], s.contReady c = true ↔ s.rxq ≠ []) ∧
    (∀ cmd, s.contReady (.bkResp cmd) = true ↔ s.x.x4.toNat ≤ s.rxq.length) ∧
    (∀ c ∈ [.espResp, .slDec], s.contReady c = true ↔ slipScan s.rxq ≠ .incomplete) ∧
    (∀ d k, s.contReady (.lpPrefix d k) = true ↔ 2 ≤ s.rxq.length) ∧ (∀ k, s.contReady (.lpLen k) = true ↔ 2 ≤ s.rxq.length) ∧
    (∀ k n, s.contReady (.lpData k n) = true ↔ n ≤ s.rxq.length) ∧
    (∀ cmd d k, s.contReady (.bkFlush cmd) = true ∧ s.contReady .wmSwitch = true ∧ s.contReady (.lpPoll d k) = true)) ∧
  (∀ (s : State) (rest : List Turn), s.cont = none →
    (∀ b, s.turns = .peer b :: rest → step s = .next { s with turns := rest, rxq := s.rxq ++ [b] }) ∧
    (s.turns = .timeout :: rest → step s = .next { s with turns := rest }) ∧
    (s.turns = [] → step s = .next s)) ∧
  (∀ (s : State) (c : Cont) (rest : List Turn), s.cont = some c →
    (∀ b, s.turns = .peer b :: rest → State.contReady { s with rxq := s.rxq ++ [b] } c = false →
      step s = .next { s with turns := rest, rxq := s.rxq ++ [b] }) ∧
    (s.turns = [] → s.contReady c = false → step s = .next s) ∧
    (s.turns = .timeout :: rest → s.contReady c = true →
      step s = .next (State.settle { s with turns := rest }) ∧
      (holdOf rest = some 0 → step s = .next { s with turns := rest }))) ∧
  (∀ (s : State) (c : Cont) (rest : List Turn), s.cont = some c → holdOf rest = some 0 →
    (∀ b, s.turns = .peer b :: rest → step s = .next { s with turns := rest, rxq := s.rxq ++ [b] }) ∧
    (s.turns = .host (.cancel true) :: rest → step s = .next { s with
      turns := rest
      reply := .accepted
      ctrl := ⟨true, s.ctrl.stub, s.ctrl.opened, s.ctrl.fault, s.ctrl.busy⟩ }) ∧
    (∀ r, s.turns = .host (.get r) :: rest → step s = .next { s with turns := rest, reply := .value (s.readReg r) })) ∧
  (∀ (s : State) (c : Cont) (n : Nat), s.cont = some c → s.contReady c = true →
    (holdOf s.turns = some 0 → s.settle = s) ∧
    (holdOf s.turns = some (n + 1) → s.settle = State.runOn n (s.uncont.resume c))) ∧
  (∀ (s : State) (p q : List Byte) (b : Byte), s.ctrl.opened = true → s.ctrl.cancel = false → 0 < s.x.x1.toNat →
    fits s.x.x0 s.x.x1.toNat → s.pbuf.shows s.x.x0.toNat s.x.x1.toNat p → b = 0x43#8 ∨ b = 0x15#8 → s.rxq = b :: q →
    s.env.writeFails = false → holdOf s.turns = some 1 →
    exec .xmSend s = .next (State.waiting { s.wrote with
      xmBase := s.x.x0
      xmTotal := s.x.x1
      xmK := 0#32
      xmSent := 0#32
      xmStat := ⟨.send, b == 0x43#8, 1#8, 0#8⟩
      rxq := q
      tx := s.tx ++ xmPacket p s.xmCfg.pad (b == 0x43#8) 0 } .xmPacket)) ∧
  (∀ (s : State) (n : Nat) (rest : List Turn), s.turns = .hold n :: rest → step s = .next { s with turns := rest }) ∧
  (∀ (s : State) (q : List Byte) (rest : List Turn), s.cont = some .xmPacket → s.rxq = 0x06#8 :: q →
    s.turns = .host (.cancel true) :: rest → holdOf rest = none → s.xmK.toNat < (s.xmTotal.toNat + 1023) / 1024 →
    step s = .next (State.faulted { s with
      turns := rest
      reply := .accepted
      ctrl := ⟨true, s.ctrl.stub, s.ctrl.opened, s.ctrl.fault, s.ctrl.busy⟩
      rxq := q
      xmK := BitVec.ofNat 32 (s.xmK.toNat + 1)
      xmSent := BitVec.ofNat 32 (min ((s.xmK.toNat + 1) * 1024) s.xmTotal.toNat)
      xmStat := { s.xmStat with state := .aborted, retry := 0#8 }
      evt := s.evt ++ [.progress (BitVec.ofNat 32 (min ((s.xmK.toNat + 1) * 1024) s.xmTotal.toNat)) s.xmTotal
        (BitVec.ofNat 32 (s.xmK.toNat + 1)) (BitVec.ofNat 32 (s.xmK.toNat * 1024)), .log .warning .cancelled] }
      0x09#8 0#32)) ∧
  (∀ (s : State) (q : List Byte) (d : Byte), s.ctrl.opened = true → s.rxq = 0x50#8 :: 0x44#8 :: q →
    holdOf s.turns = some 1 →
    exec (.lpDec d) s = .next (State.waiting { s with rxq := q } (.lpPoll (d.getLsbD 0) 1)))

end
end

