-- ==== Sys2Proof/Laws/Memory.lean ====
section
/-! SUPPORT. The laws of `PBUF` (spec/20_memory.md R60 to R62): reading after writing, and the canonical form. -/

namespace Sys2Proof.Machine

/-! ### Reading after writing -/

theorem Memory.find_store (m : Memory) (a k : Nat) (b : Byte) :
    (m.store a b).find k = if k = a then some b else m.find k := by
  induction m with
  | nil => simp [Memory.store, Memory.find, eq_comm]
  | cons c rest ih =>
    obtain ⟨ka, va⟩ := c
    by_cases hk : k = a
    · subst hk
      simp only [Memory.store, if_true]
      split
      · simp [Memory.find]
      · split
        · simp [Memory.find]
        · rename_i h1 h2
          simp [Memory.find, ih, Ne.symm h2]
    · simp only [Memory.store, if_neg hk]
      split
      · simp [Memory.find, Ne.symm hk]
      · split
        · rename_i h1 h2
          subst h2
          simp [Memory.find, Ne.symm hk]
        · simp only [Memory.find, ih, if_neg hk]

theorem Memory.store_lower (m : Memory) (a n : Nat) (b : Byte) (h : ∀ c ∈ m, n < c.1) (ha : n < a) :
    ∀ c ∈ m.store a b, n < c.1 := by
  induction m with
  | nil => simpa [Memory.store] using ha
  | cons p rest ih =>
    have ih' := ih (fun c hc => h c (by simp [hc]))
    have hp := h p (by simp)
    simp only [Memory.store]
    split
    · intro c hc
      rcases List.mem_cons.1 hc with rfl | hc
      · exact ha
      · exact h c hc
    · split
      · intro c hc
        rcases List.mem_cons.1 hc with rfl | hc
        · exact ha
        · exact h c (by simp [hc])
      · intro c hc
        rcases List.mem_cons.1 hc with rfl | hc
        · exact hp
        · exact ih' c hc

theorem Memory.store_sorted (m : Memory) (a : Nat) (b : Byte) (h : m.Pairwise (fun p q => p.1 < q.1)) :
    (m.store a b).Pairwise (fun p q => p.1 < q.1) := by
  induction m with
  | nil => simp [Memory.store]
  | cons p rest ih =>
    have hs := h
    rw [List.pairwise_cons] at h
    simp only [Memory.store]
    split
    · rename_i hlt
      refine List.pairwise_cons.2 ⟨?_, hs⟩
      intro c hc
      rcases List.mem_cons.1 hc with rfl | hc
      · exact hlt
      · exact Nat.lt_trans hlt (h.1 c hc)
    · split
      · subst_vars
        exact List.pairwise_cons.2 ⟨h.1, h.2⟩
      · exact List.pairwise_cons.2 ⟨Memory.store_lower rest a p.1 b h.1 (by omega), ih h.2⟩

theorem Memory.store_bound (m : Memory) (a n : Nat) (b : Byte) (h : ∀ c ∈ m, c.1 < n) (ha : a < n) :
    ∀ c ∈ m.store a b, c.1 < n := by
  induction m with
  | nil => simpa [Memory.store] using ha
  | cons p rest ih =>
    have ih' := ih (fun c hc => h c (by simp [hc]))
    have hp := h p (by simp)
    simp only [Memory.store]
    split
    · intro c hc
      rcases List.mem_cons.1 hc with rfl | hc
      · exact ha
      · exact h c hc
    · split
      · intro c hc
        rcases List.mem_cons.1 hc with rfl | hc
        · exact ha
        · exact h c (by simp [hc])
      · intro c hc
        rcases List.mem_cons.1 hc with rfl | hc
        · exact hp
        · exact ih' c hc

/-- Writing one byte of `PBUF` keeps the canonical form. -/
theorem Memory.wf_store (m : Memory) (a : Nat) (b : Byte) (h : m.wf) (ha : a < Config.pbufBytes) : (m.store a b).wf :=
  ⟨Memory.store_sorted m a b h.1, Memory.store_bound m a _ b h.2 ha⟩

/-- Writing a byte string inside `PBUF` keeps the canonical form. -/
theorem Memory.wf_storeBytes (bs : List Byte) : ∀ (m : Memory) (a : Nat), m.wf → a + bs.length ≤ Config.pbufBytes →
    (m.storeBytes a bs).wf := by
  induction bs with
  | nil => intro m a h _; exact h
  | cons b rest ih =>
    intro m a h ha
    simp only [List.length_cons] at ha
    exact ih _ _ (Memory.wf_store m a b h (by omega)) (by omega)

/-- `PBUF` after POR has the canonical form. -/
theorem reset_memory_wf : State.reset.pbuf.wf := by
  exact ⟨List.Pairwise.nil, by simp [State.reset]⟩

/-- Reading after writing one byte: the byte written at that address, every other address as before. -/
theorem Memory.byteAt_store (m : Memory) (a k : Nat) (b : Byte) :
    (m.store a b).byteAt k = if k = a then b else m.byteAt k := by
  simp only [Memory.byteAt, Memory.find_store m a k b]
  split <;> simp

/-- Reading after writing a byte string: its bytes at its addresses, every other address as before. -/
theorem Memory.holds_storeBytes (bs : List Byte) : ∀ (m : Memory) (a : Nat),
    (m.storeBytes a bs).holds m a bs := by
  induction bs with
  | nil => intro m a k; simp [Memory.storeBytes]
  | cons b rest ih =>
    intro m a k
    have := ih (m.store a b) (a + 1) k
    simp only [Memory.storeBytes]
    rw [this, Memory.byteAt_store m a k b]
    simp only [List.length_cons]
    by_cases h1 : k = a
    · subst h1
      simp
    · by_cases h2 : a + 1 ≤ k ∧ k < a + 1 + rest.length
      · rw [if_pos h2, if_pos (by omega)]
        obtain ⟨d, rfl⟩ : ∃ d, k = a + 1 + d := ⟨k - (a + 1), by omega⟩
        have e1 : a + 1 + d - (a + 1) = d := by omega
        have e2 : a + 1 + d - a = d + 1 := by omega
        simp [e1, e2]
      · rw [if_neg h2, if_neg h1, if_neg (by omega)]

/-! ### Reading a range -/

@[simp] theorem Memory.bytes_length (m : Memory) (a n : Nat) : (m.bytes a n).length = n := by
  induction n generalizing a with
  | zero => rfl
  | succ n ih => simp [Memory.bytes, ih]

theorem Memory.bytes_getD (m : Memory) (a n k : Nat) (h : k < n) : (m.bytes a n).getD k 0#8 = m.byteAt (a + k) := by
  induction n generalizing a k with
  | zero => omega
  | succ n ih =>
    cases k with
    | zero => simp [Memory.bytes]
    | succ k =>
      have := ih (a + 1) k (by omega)
      simp only [Memory.bytes, List.getD_cons_succ, this]
      congr 1
      omega

/-- Reading a range gives the bytes that memory shows there. -/
theorem Memory.shows_bytes (m : Memory) (a n : Nat) : m.shows a n (m.bytes a n) :=
  ⟨Memory.bytes_length m a n, fun k hk => Memory.bytes_getD m a n k hk⟩

/-- What memory shows at a range is what reading the range gives. -/
theorem Memory.bytes_of_shows (m : Memory) (a n : Nat) (bs : List Byte) (h : m.shows a n bs) : m.bytes a n = bs := by
  apply List.ext_getElem
  · simp [h.1]
  · intro k h1 h2
    have hk : k < n := by simpa using h1
    have e1 := Memory.bytes_getD m a n k hk
    have e2 := h.2 k hk
    rw [List.getD_eq_getElem _ _ h1] at e1
    rw [List.getD_eq_getElem _ _ h2] at e2
    rw [e1, e2]

end Sys2Proof.Machine
end

