-- ==== Sys2Proof/Laws/State.lean ====
section
/-! SUPPORT. The fields of a state after each named update of the model: one lemma per field and update, so that no later
proof unfolds a record update. -/

namespace Sys2Proof.Machine.State

variable (s : State)

/-! ### `raise` -/

@[simp] theorem raise_x (c : StatusCode) (v : Word) : (s.raise c v).x = s.x := rfl
@[simp] theorem raise_status (c : StatusCode) (v : Word) : (s.raise c v).status = c.code := rfl
@[simp] theorem raise_info (c : StatusCode) (v : Word) : (s.raise c v).info = v := rfl
@[simp] theorem raise_ctrl (c : StatusCode) (v : Word) : (s.raise c v).ctrl = { s.ctrl with fault := true, busy := false } := rfl
@[simp] theorem raise_baudCur (c : StatusCode) (v : Word) : (s.raise c v).baudCur = s.baudCur := rfl
@[simp] theorem raise_xmCfg (c : StatusCode) (v : Word) : (s.raise c v).xmCfg = s.xmCfg := rfl
@[simp] theorem raise_xmStat (c : StatusCode) (v : Word) : (s.raise c v).xmStat = s.xmStat := rfl
@[simp] theorem raise_xmBase (c : StatusCode) (v : Word) : (s.raise c v).xmBase = s.xmBase := rfl
@[simp] theorem raise_xmTotal (c : StatusCode) (v : Word) : (s.raise c v).xmTotal = s.xmTotal := rfl
@[simp] theorem raise_xmK (c : StatusCode) (v : Word) : (s.raise c v).xmK = s.xmK := rfl
@[simp] theorem raise_xmSent (c : StatusCode) (v : Word) : (s.raise c v).xmSent = s.xmSent := rfl
@[simp] theorem raise_brStat (c : StatusCode) (v : Word) : (s.raise c v).brStat = s.brStat := rfl
@[simp] theorem raise_brTarget (c : StatusCode) (v : Word) : (s.raise c v).brTarget = s.brTarget := rfl
@[simp] theorem raise_valid (c : StatusCode) (v : Word) : (s.raise c v).valid = s.valid := rfl
@[simp] theorem raise_crc16 (c : StatusCode) (v : Word) : (s.raise c v).crc16 = s.crc16 := rfl
@[simp] theorem raise_crc32 (c : StatusCode) (v : Word) : (s.raise c v).crc32 = s.crc32 := rfl
@[simp] theorem raise_md5 (c : StatusCode) (v : Word) : (s.raise c v).md5 = s.md5 := rfl
@[simp] theorem raise_sha (c : StatusCode) (v : Word) : (s.raise c v).sha = s.sha := rfl
@[simp] theorem raise_pbuf (c : StatusCode) (v : Word) : (s.raise c v).pbuf = s.pbuf := rfl
@[simp] theorem raise_rxq (c : StatusCode) (v : Word) : (s.raise c v).rxq = s.rxq := rfl
@[simp] theorem raise_tx (c : StatusCode) (v : Word) : (s.raise c v).tx = s.tx := rfl
@[simp] theorem raise_evt (c : StatusCode) (v : Word) : (s.raise c v).evt = s.evt := rfl
@[simp] theorem raise_opcur (c : StatusCode) (v : Word) : (s.raise c v).opcur = none := rfl
@[simp] theorem raise_cont (c : StatusCode) (v : Word) : (s.raise c v).cont = none := rfl
@[simp] theorem raise_params (c : StatusCode) (v : Word) : (s.raise c v).params = s.params := rfl
@[simp] theorem raise_turns (c : StatusCode) (v : Word) : (s.raise c v).turns = s.turns := rfl
@[simp] theorem raise_env (c : StatusCode) (v : Word) : (s.raise c v).env = s.env := rfl
@[simp] theorem raise_reply (c : StatusCode) (v : Word) : (s.raise c v).reply = s.reply := rfl

/-! ### `complete` -/

@[simp] theorem complete_x : (s.complete).x = s.x := rfl
@[simp] theorem complete_status : (s.complete).status = 0#8 := rfl
@[simp] theorem complete_info : (s.complete).info = 0#32 := rfl
@[simp] theorem complete_ctrl : (s.complete).ctrl = { s.ctrl with busy := false } := rfl
@[simp] theorem complete_baudCur : (s.complete).baudCur = s.baudCur := rfl
@[simp] theorem complete_xmCfg : (s.complete).xmCfg = s.xmCfg := rfl
@[simp] theorem complete_xmStat : (s.complete).xmStat = s.xmStat := rfl
@[simp] theorem complete_xmBase : (s.complete).xmBase = s.xmBase := rfl
@[simp] theorem complete_xmTotal : (s.complete).xmTotal = s.xmTotal := rfl
@[simp] theorem complete_xmK : (s.complete).xmK = s.xmK := rfl
@[simp] theorem complete_xmSent : (s.complete).xmSent = s.xmSent := rfl
@[simp] theorem complete_brStat : (s.complete).brStat = s.brStat := rfl
@[simp] theorem complete_brTarget : (s.complete).brTarget = s.brTarget := rfl
@[simp] theorem complete_valid : (s.complete).valid = s.valid := rfl
@[simp] theorem complete_crc16 : (s.complete).crc16 = s.crc16 := rfl
@[simp] theorem complete_crc32 : (s.complete).crc32 = s.crc32 := rfl
@[simp] theorem complete_md5 : (s.complete).md5 = s.md5 := rfl
@[simp] theorem complete_sha : (s.complete).sha = s.sha := rfl
@[simp] theorem complete_pbuf : (s.complete).pbuf = s.pbuf := rfl
@[simp] theorem complete_rxq : (s.complete).rxq = s.rxq := rfl
@[simp] theorem complete_tx : (s.complete).tx = s.tx := rfl
@[simp] theorem complete_evt : (s.complete).evt = s.evt := rfl
@[simp] theorem complete_opcur : (s.complete).opcur = none := rfl
@[simp] theorem complete_cont : (s.complete).cont = none := rfl
@[simp] theorem complete_params : (s.complete).params = s.params := rfl
@[simp] theorem complete_turns : (s.complete).turns = s.turns := rfl
@[simp] theorem complete_env : (s.complete).env = s.env := rfl
@[simp] theorem complete_reply : (s.complete).reply = s.reply := rfl

/-! ### `suspend` -/

@[simp] theorem suspend_x (c : Cont) : (s.suspend c).x = s.x := rfl
@[simp] theorem suspend_status (c : Cont) : (s.suspend c).status = s.status := rfl
@[simp] theorem suspend_info (c : Cont) : (s.suspend c).info = s.info := rfl
@[simp] theorem suspend_ctrl (c : Cont) : (s.suspend c).ctrl = s.ctrl := rfl
@[simp] theorem suspend_baudCur (c : Cont) : (s.suspend c).baudCur = s.baudCur := rfl
@[simp] theorem suspend_xmCfg (c : Cont) : (s.suspend c).xmCfg = s.xmCfg := rfl
@[simp] theorem suspend_xmStat (c : Cont) : (s.suspend c).xmStat = s.xmStat := rfl
@[simp] theorem suspend_xmBase (c : Cont) : (s.suspend c).xmBase = s.xmBase := rfl
@[simp] theorem suspend_xmTotal (c : Cont) : (s.suspend c).xmTotal = s.xmTotal := rfl
@[simp] theorem suspend_xmK (c : Cont) : (s.suspend c).xmK = s.xmK := rfl
@[simp] theorem suspend_xmSent (c : Cont) : (s.suspend c).xmSent = s.xmSent := rfl
@[simp] theorem suspend_brStat (c : Cont) : (s.suspend c).brStat = s.brStat := rfl
@[simp] theorem suspend_brTarget (c : Cont) : (s.suspend c).brTarget = s.brTarget := rfl
@[simp] theorem suspend_valid (c : Cont) : (s.suspend c).valid = s.valid := rfl
@[simp] theorem suspend_crc16 (c : Cont) : (s.suspend c).crc16 = s.crc16 := rfl
@[simp] theorem suspend_crc32 (c : Cont) : (s.suspend c).crc32 = s.crc32 := rfl
@[simp] theorem suspend_md5 (c : Cont) : (s.suspend c).md5 = s.md5 := rfl
@[simp] theorem suspend_sha (c : Cont) : (s.suspend c).sha = s.sha := rfl
@[simp] theorem suspend_pbuf (c : Cont) : (s.suspend c).pbuf = s.pbuf := rfl
@[simp] theorem suspend_rxq (c : Cont) : (s.suspend c).rxq = s.rxq := rfl
@[simp] theorem suspend_tx (c : Cont) : (s.suspend c).tx = s.tx := rfl
@[simp] theorem suspend_evt (c : Cont) : (s.suspend c).evt = s.evt := rfl
@[simp] theorem suspend_opcur (c : Cont) : (s.suspend c).opcur = s.opcur := rfl
@[simp] theorem suspend_cont (c : Cont) : (s.suspend c).cont = some c := rfl
@[simp] theorem suspend_params (c : Cont) : (s.suspend c).params = s.params := rfl
@[simp] theorem suspend_turns (c : Cont) : (s.suspend c).turns = s.turns := rfl
@[simp] theorem suspend_env (c : Cont) : (s.suspend c).env = s.env := rfl
@[simp] theorem suspend_reply (c : Cont) : (s.suspend c).reply = s.reply := rfl

/-! ### `uncont` -/

@[simp] theorem uncont_x : (s.uncont).x = s.x := rfl
@[simp] theorem uncont_status : (s.uncont).status = s.status := rfl
@[simp] theorem uncont_info : (s.uncont).info = s.info := rfl
@[simp] theorem uncont_ctrl : (s.uncont).ctrl = s.ctrl := rfl
@[simp] theorem uncont_baudCur : (s.uncont).baudCur = s.baudCur := rfl
@[simp] theorem uncont_xmCfg : (s.uncont).xmCfg = s.xmCfg := rfl
@[simp] theorem uncont_xmStat : (s.uncont).xmStat = s.xmStat := rfl
@[simp] theorem uncont_xmBase : (s.uncont).xmBase = s.xmBase := rfl
@[simp] theorem uncont_xmTotal : (s.uncont).xmTotal = s.xmTotal := rfl
@[simp] theorem uncont_xmK : (s.uncont).xmK = s.xmK := rfl
@[simp] theorem uncont_xmSent : (s.uncont).xmSent = s.xmSent := rfl
@[simp] theorem uncont_brStat : (s.uncont).brStat = s.brStat := rfl
@[simp] theorem uncont_brTarget : (s.uncont).brTarget = s.brTarget := rfl
@[simp] theorem uncont_valid : (s.uncont).valid = s.valid := rfl
@[simp] theorem uncont_crc16 : (s.uncont).crc16 = s.crc16 := rfl
@[simp] theorem uncont_crc32 : (s.uncont).crc32 = s.crc32 := rfl
@[simp] theorem uncont_md5 : (s.uncont).md5 = s.md5 := rfl
@[simp] theorem uncont_sha : (s.uncont).sha = s.sha := rfl
@[simp] theorem uncont_pbuf : (s.uncont).pbuf = s.pbuf := rfl
@[simp] theorem uncont_rxq : (s.uncont).rxq = s.rxq := rfl
@[simp] theorem uncont_tx : (s.uncont).tx = s.tx := rfl
@[simp] theorem uncont_evt : (s.uncont).evt = s.evt := rfl
@[simp] theorem uncont_opcur : (s.uncont).opcur = s.opcur := rfl
@[simp] theorem uncont_cont : (s.uncont).cont = none := rfl
@[simp] theorem uncont_params : (s.uncont).params = s.params := rfl
@[simp] theorem uncont_turns : (s.uncont).turns = s.turns := rfl
@[simp] theorem uncont_env : (s.uncont).env = s.env := rfl
@[simp] theorem uncont_reply : (s.uncont).reply = s.reply := rfl

/-! ### `setX6` -/

@[simp] theorem setX6_x (v : Word) : (s.setX6 v).x = { s.x with x6 := v } := rfl
@[simp] theorem setX6_status (v : Word) : (s.setX6 v).status = s.status := rfl
@[simp] theorem setX6_info (v : Word) : (s.setX6 v).info = s.info := rfl
@[simp] theorem setX6_ctrl (v : Word) : (s.setX6 v).ctrl = s.ctrl := rfl
@[simp] theorem setX6_baudCur (v : Word) : (s.setX6 v).baudCur = s.baudCur := rfl
@[simp] theorem setX6_xmCfg (v : Word) : (s.setX6 v).xmCfg = s.xmCfg := rfl
@[simp] theorem setX6_xmStat (v : Word) : (s.setX6 v).xmStat = s.xmStat := rfl
@[simp] theorem setX6_xmBase (v : Word) : (s.setX6 v).xmBase = s.xmBase := rfl
@[simp] theorem setX6_xmTotal (v : Word) : (s.setX6 v).xmTotal = s.xmTotal := rfl
@[simp] theorem setX6_xmK (v : Word) : (s.setX6 v).xmK = s.xmK := rfl
@[simp] theorem setX6_xmSent (v : Word) : (s.setX6 v).xmSent = s.xmSent := rfl
@[simp] theorem setX6_brStat (v : Word) : (s.setX6 v).brStat = s.brStat := rfl
@[simp] theorem setX6_brTarget (v : Word) : (s.setX6 v).brTarget = s.brTarget := rfl
@[simp] theorem setX6_valid (v : Word) : (s.setX6 v).valid = s.valid := rfl
@[simp] theorem setX6_crc16 (v : Word) : (s.setX6 v).crc16 = s.crc16 := rfl
@[simp] theorem setX6_crc32 (v : Word) : (s.setX6 v).crc32 = s.crc32 := rfl
@[simp] theorem setX6_md5 (v : Word) : (s.setX6 v).md5 = s.md5 := rfl
@[simp] theorem setX6_sha (v : Word) : (s.setX6 v).sha = s.sha := rfl
@[simp] theorem setX6_pbuf (v : Word) : (s.setX6 v).pbuf = s.pbuf := rfl
@[simp] theorem setX6_rxq (v : Word) : (s.setX6 v).rxq = s.rxq := rfl
@[simp] theorem setX6_tx (v : Word) : (s.setX6 v).tx = s.tx := rfl
@[simp] theorem setX6_evt (v : Word) : (s.setX6 v).evt = s.evt := rfl
@[simp] theorem setX6_opcur (v : Word) : (s.setX6 v).opcur = s.opcur := rfl
@[simp] theorem setX6_cont (v : Word) : (s.setX6 v).cont = s.cont := rfl
@[simp] theorem setX6_params (v : Word) : (s.setX6 v).params = s.params := rfl
@[simp] theorem setX6_turns (v : Word) : (s.setX6 v).turns = s.turns := rfl
@[simp] theorem setX6_env (v : Word) : (s.setX6 v).env = s.env := rfl
@[simp] theorem setX6_reply (v : Word) : (s.setX6 v).reply = s.reply := rfl

/-! ### `setX7` -/

@[simp] theorem setX7_x (v : Word) : (s.setX7 v).x = { s.x with x7 := v } := rfl
@[simp] theorem setX7_status (v : Word) : (s.setX7 v).status = s.status := rfl
@[simp] theorem setX7_info (v : Word) : (s.setX7 v).info = s.info := rfl
@[simp] theorem setX7_ctrl (v : Word) : (s.setX7 v).ctrl = s.ctrl := rfl
@[simp] theorem setX7_baudCur (v : Word) : (s.setX7 v).baudCur = s.baudCur := rfl
@[simp] theorem setX7_xmCfg (v : Word) : (s.setX7 v).xmCfg = s.xmCfg := rfl
@[simp] theorem setX7_xmStat (v : Word) : (s.setX7 v).xmStat = s.xmStat := rfl
@[simp] theorem setX7_xmBase (v : Word) : (s.setX7 v).xmBase = s.xmBase := rfl
@[simp] theorem setX7_xmTotal (v : Word) : (s.setX7 v).xmTotal = s.xmTotal := rfl
@[simp] theorem setX7_xmK (v : Word) : (s.setX7 v).xmK = s.xmK := rfl
@[simp] theorem setX7_xmSent (v : Word) : (s.setX7 v).xmSent = s.xmSent := rfl
@[simp] theorem setX7_brStat (v : Word) : (s.setX7 v).brStat = s.brStat := rfl
@[simp] theorem setX7_brTarget (v : Word) : (s.setX7 v).brTarget = s.brTarget := rfl
@[simp] theorem setX7_valid (v : Word) : (s.setX7 v).valid = s.valid := rfl
@[simp] theorem setX7_crc16 (v : Word) : (s.setX7 v).crc16 = s.crc16 := rfl
@[simp] theorem setX7_crc32 (v : Word) : (s.setX7 v).crc32 = s.crc32 := rfl
@[simp] theorem setX7_md5 (v : Word) : (s.setX7 v).md5 = s.md5 := rfl
@[simp] theorem setX7_sha (v : Word) : (s.setX7 v).sha = s.sha := rfl
@[simp] theorem setX7_pbuf (v : Word) : (s.setX7 v).pbuf = s.pbuf := rfl
@[simp] theorem setX7_rxq (v : Word) : (s.setX7 v).rxq = s.rxq := rfl
@[simp] theorem setX7_tx (v : Word) : (s.setX7 v).tx = s.tx := rfl
@[simp] theorem setX7_evt (v : Word) : (s.setX7 v).evt = s.evt := rfl
@[simp] theorem setX7_opcur (v : Word) : (s.setX7 v).opcur = s.opcur := rfl
@[simp] theorem setX7_cont (v : Word) : (s.setX7 v).cont = s.cont := rfl
@[simp] theorem setX7_params (v : Word) : (s.setX7 v).params = s.params := rfl
@[simp] theorem setX7_turns (v : Word) : (s.setX7 v).turns = s.turns := rfl
@[simp] theorem setX7_env (v : Word) : (s.setX7 v).env = s.env := rfl
@[simp] theorem setX7_reply (v : Word) : (s.setX7 v).reply = s.reply := rfl

/-! ### `emit` -/

@[simp] theorem emit_x (e : Event) : (s.emit e).x = s.x := rfl
@[simp] theorem emit_status (e : Event) : (s.emit e).status = s.status := rfl
@[simp] theorem emit_info (e : Event) : (s.emit e).info = s.info := rfl
@[simp] theorem emit_ctrl (e : Event) : (s.emit e).ctrl = s.ctrl := rfl
@[simp] theorem emit_baudCur (e : Event) : (s.emit e).baudCur = s.baudCur := rfl
@[simp] theorem emit_xmCfg (e : Event) : (s.emit e).xmCfg = s.xmCfg := rfl
@[simp] theorem emit_xmStat (e : Event) : (s.emit e).xmStat = s.xmStat := rfl
@[simp] theorem emit_xmBase (e : Event) : (s.emit e).xmBase = s.xmBase := rfl
@[simp] theorem emit_xmTotal (e : Event) : (s.emit e).xmTotal = s.xmTotal := rfl
@[simp] theorem emit_xmK (e : Event) : (s.emit e).xmK = s.xmK := rfl
@[simp] theorem emit_xmSent (e : Event) : (s.emit e).xmSent = s.xmSent := rfl
@[simp] theorem emit_brStat (e : Event) : (s.emit e).brStat = s.brStat := rfl
@[simp] theorem emit_brTarget (e : Event) : (s.emit e).brTarget = s.brTarget := rfl
@[simp] theorem emit_valid (e : Event) : (s.emit e).valid = s.valid := rfl
@[simp] theorem emit_crc16 (e : Event) : (s.emit e).crc16 = s.crc16 := rfl
@[simp] theorem emit_crc32 (e : Event) : (s.emit e).crc32 = s.crc32 := rfl
@[simp] theorem emit_md5 (e : Event) : (s.emit e).md5 = s.md5 := rfl
@[simp] theorem emit_sha (e : Event) : (s.emit e).sha = s.sha := rfl
@[simp] theorem emit_pbuf (e : Event) : (s.emit e).pbuf = s.pbuf := rfl
@[simp] theorem emit_rxq (e : Event) : (s.emit e).rxq = s.rxq := rfl
@[simp] theorem emit_tx (e : Event) : (s.emit e).tx = s.tx := rfl
@[simp] theorem emit_evt (e : Event) : (s.emit e).evt = s.evt ++ [e] := rfl
@[simp] theorem emit_opcur (e : Event) : (s.emit e).opcur = s.opcur := rfl
@[simp] theorem emit_cont (e : Event) : (s.emit e).cont = s.cont := rfl
@[simp] theorem emit_params (e : Event) : (s.emit e).params = s.params := rfl
@[simp] theorem emit_turns (e : Event) : (s.emit e).turns = s.turns := rfl
@[simp] theorem emit_env (e : Event) : (s.emit e).env = s.env := rfl
@[simp] theorem emit_reply (e : Event) : (s.emit e).reply = s.reply := rfl

/-! ### `txFailed` -/

@[simp] theorem txFailed_x : (s.txFailed).x = s.x := rfl
@[simp] theorem txFailed_status : (s.txFailed).status = s.status := rfl
@[simp] theorem txFailed_info : (s.txFailed).info = s.info := rfl
@[simp] theorem txFailed_ctrl : (s.txFailed).ctrl = s.ctrl := rfl
@[simp] theorem txFailed_baudCur : (s.txFailed).baudCur = s.baudCur := rfl
@[simp] theorem txFailed_xmCfg : (s.txFailed).xmCfg = s.xmCfg := rfl
@[simp] theorem txFailed_xmStat : (s.txFailed).xmStat = s.xmStat := rfl
@[simp] theorem txFailed_xmBase : (s.txFailed).xmBase = s.xmBase := rfl
@[simp] theorem txFailed_xmTotal : (s.txFailed).xmTotal = s.xmTotal := rfl
@[simp] theorem txFailed_xmK : (s.txFailed).xmK = s.xmK := rfl
@[simp] theorem txFailed_xmSent : (s.txFailed).xmSent = s.xmSent := rfl
@[simp] theorem txFailed_brStat : (s.txFailed).brStat = s.brStat := rfl
@[simp] theorem txFailed_brTarget : (s.txFailed).brTarget = s.brTarget := rfl
@[simp] theorem txFailed_valid : (s.txFailed).valid = s.valid := rfl
@[simp] theorem txFailed_crc16 : (s.txFailed).crc16 = s.crc16 := rfl
@[simp] theorem txFailed_crc32 : (s.txFailed).crc32 = s.crc32 := rfl
@[simp] theorem txFailed_md5 : (s.txFailed).md5 = s.md5 := rfl
@[simp] theorem txFailed_sha : (s.txFailed).sha = s.sha := rfl
@[simp] theorem txFailed_pbuf : (s.txFailed).pbuf = s.pbuf := rfl
@[simp] theorem txFailed_rxq : (s.txFailed).rxq = s.rxq := rfl
@[simp] theorem txFailed_tx : (s.txFailed).tx = s.tx := rfl
@[simp] theorem txFailed_evt : (s.txFailed).evt = s.evt := rfl
@[simp] theorem txFailed_opcur : (s.txFailed).opcur = s.opcur := rfl
@[simp] theorem txFailed_cont : (s.txFailed).cont = s.cont := rfl
@[simp] theorem txFailed_params : (s.txFailed).params = s.params := rfl
@[simp] theorem txFailed_turns : (s.txFailed).turns = s.turns := rfl
@[simp] theorem txFailed_env : (s.txFailed).env = s.env.afterWrite := rfl
@[simp] theorem txFailed_reply : (s.txFailed).reply = s.reply := rfl

/-! ### `txSent` -/

@[simp] theorem txSent_x (bs : List Byte) : (s.txSent bs).x = s.x := rfl
@[simp] theorem txSent_status (bs : List Byte) : (s.txSent bs).status = s.status := rfl
@[simp] theorem txSent_info (bs : List Byte) : (s.txSent bs).info = s.info := rfl
@[simp] theorem txSent_ctrl (bs : List Byte) : (s.txSent bs).ctrl = s.ctrl := rfl
@[simp] theorem txSent_baudCur (bs : List Byte) : (s.txSent bs).baudCur = s.baudCur := rfl
@[simp] theorem txSent_xmCfg (bs : List Byte) : (s.txSent bs).xmCfg = s.xmCfg := rfl
@[simp] theorem txSent_xmStat (bs : List Byte) : (s.txSent bs).xmStat = s.xmStat := rfl
@[simp] theorem txSent_xmBase (bs : List Byte) : (s.txSent bs).xmBase = s.xmBase := rfl
@[simp] theorem txSent_xmTotal (bs : List Byte) : (s.txSent bs).xmTotal = s.xmTotal := rfl
@[simp] theorem txSent_xmK (bs : List Byte) : (s.txSent bs).xmK = s.xmK := rfl
@[simp] theorem txSent_xmSent (bs : List Byte) : (s.txSent bs).xmSent = s.xmSent := rfl
@[simp] theorem txSent_brStat (bs : List Byte) : (s.txSent bs).brStat = s.brStat := rfl
@[simp] theorem txSent_brTarget (bs : List Byte) : (s.txSent bs).brTarget = s.brTarget := rfl
@[simp] theorem txSent_valid (bs : List Byte) : (s.txSent bs).valid = s.valid := rfl
@[simp] theorem txSent_crc16 (bs : List Byte) : (s.txSent bs).crc16 = s.crc16 := rfl
@[simp] theorem txSent_crc32 (bs : List Byte) : (s.txSent bs).crc32 = s.crc32 := rfl
@[simp] theorem txSent_md5 (bs : List Byte) : (s.txSent bs).md5 = s.md5 := rfl
@[simp] theorem txSent_sha (bs : List Byte) : (s.txSent bs).sha = s.sha := rfl
@[simp] theorem txSent_pbuf (bs : List Byte) : (s.txSent bs).pbuf = s.pbuf := rfl
@[simp] theorem txSent_rxq (bs : List Byte) : (s.txSent bs).rxq = s.rxq := rfl
@[simp] theorem txSent_tx (bs : List Byte) : (s.txSent bs).tx = s.tx ++ bs := rfl
@[simp] theorem txSent_evt (bs : List Byte) : (s.txSent bs).evt = s.evt := rfl
@[simp] theorem txSent_opcur (bs : List Byte) : (s.txSent bs).opcur = s.opcur := rfl
@[simp] theorem txSent_cont (bs : List Byte) : (s.txSent bs).cont = s.cont := rfl
@[simp] theorem txSent_params (bs : List Byte) : (s.txSent bs).params = s.params := rfl
@[simp] theorem txSent_turns (bs : List Byte) : (s.txSent bs).turns = s.turns := rfl
@[simp] theorem txSent_env (bs : List Byte) : (s.txSent bs).env = s.env.afterWrite := rfl
@[simp] theorem txSent_reply (bs : List Byte) : (s.txSent bs).reply = s.reply := rfl

/-! ### `rxDrop` -/

@[simp] theorem rxDrop_x (n : Nat) : (s.rxDrop n).x = s.x := rfl
@[simp] theorem rxDrop_status (n : Nat) : (s.rxDrop n).status = s.status := rfl
@[simp] theorem rxDrop_info (n : Nat) : (s.rxDrop n).info = s.info := rfl
@[simp] theorem rxDrop_ctrl (n : Nat) : (s.rxDrop n).ctrl = s.ctrl := rfl
@[simp] theorem rxDrop_baudCur (n : Nat) : (s.rxDrop n).baudCur = s.baudCur := rfl
@[simp] theorem rxDrop_xmCfg (n : Nat) : (s.rxDrop n).xmCfg = s.xmCfg := rfl
@[simp] theorem rxDrop_xmStat (n : Nat) : (s.rxDrop n).xmStat = s.xmStat := rfl
@[simp] theorem rxDrop_xmBase (n : Nat) : (s.rxDrop n).xmBase = s.xmBase := rfl
@[simp] theorem rxDrop_xmTotal (n : Nat) : (s.rxDrop n).xmTotal = s.xmTotal := rfl
@[simp] theorem rxDrop_xmK (n : Nat) : (s.rxDrop n).xmK = s.xmK := rfl
@[simp] theorem rxDrop_xmSent (n : Nat) : (s.rxDrop n).xmSent = s.xmSent := rfl
@[simp] theorem rxDrop_brStat (n : Nat) : (s.rxDrop n).brStat = s.brStat := rfl
@[simp] theorem rxDrop_brTarget (n : Nat) : (s.rxDrop n).brTarget = s.brTarget := rfl
@[simp] theorem rxDrop_valid (n : Nat) : (s.rxDrop n).valid = s.valid := rfl
@[simp] theorem rxDrop_crc16 (n : Nat) : (s.rxDrop n).crc16 = s.crc16 := rfl
@[simp] theorem rxDrop_crc32 (n : Nat) : (s.rxDrop n).crc32 = s.crc32 := rfl
@[simp] theorem rxDrop_md5 (n : Nat) : (s.rxDrop n).md5 = s.md5 := rfl
@[simp] theorem rxDrop_sha (n : Nat) : (s.rxDrop n).sha = s.sha := rfl
@[simp] theorem rxDrop_pbuf (n : Nat) : (s.rxDrop n).pbuf = s.pbuf := rfl
@[simp] theorem rxDrop_rxq (n : Nat) : (s.rxDrop n).rxq = s.rxq.drop n := rfl
@[simp] theorem rxDrop_tx (n : Nat) : (s.rxDrop n).tx = s.tx := rfl
@[simp] theorem rxDrop_evt (n : Nat) : (s.rxDrop n).evt = s.evt := rfl
@[simp] theorem rxDrop_opcur (n : Nat) : (s.rxDrop n).opcur = s.opcur := rfl
@[simp] theorem rxDrop_cont (n : Nat) : (s.rxDrop n).cont = s.cont := rfl
@[simp] theorem rxDrop_params (n : Nat) : (s.rxDrop n).params = s.params := rfl
@[simp] theorem rxDrop_turns (n : Nat) : (s.rxDrop n).turns = s.turns := rfl
@[simp] theorem rxDrop_env (n : Nat) : (s.rxDrop n).env = s.env := rfl
@[simp] theorem rxDrop_reply (n : Nat) : (s.rxDrop n).reply = s.reply := rfl

/-! ### `rxPut` -/

@[simp] theorem rxPut_x (b : Byte) : (s.rxPut b).x = s.x := rfl
@[simp] theorem rxPut_status (b : Byte) : (s.rxPut b).status = s.status := rfl
@[simp] theorem rxPut_info (b : Byte) : (s.rxPut b).info = s.info := rfl
@[simp] theorem rxPut_ctrl (b : Byte) : (s.rxPut b).ctrl = s.ctrl := rfl
@[simp] theorem rxPut_baudCur (b : Byte) : (s.rxPut b).baudCur = s.baudCur := rfl
@[simp] theorem rxPut_xmCfg (b : Byte) : (s.rxPut b).xmCfg = s.xmCfg := rfl
@[simp] theorem rxPut_xmStat (b : Byte) : (s.rxPut b).xmStat = s.xmStat := rfl
@[simp] theorem rxPut_xmBase (b : Byte) : (s.rxPut b).xmBase = s.xmBase := rfl
@[simp] theorem rxPut_xmTotal (b : Byte) : (s.rxPut b).xmTotal = s.xmTotal := rfl
@[simp] theorem rxPut_xmK (b : Byte) : (s.rxPut b).xmK = s.xmK := rfl
@[simp] theorem rxPut_xmSent (b : Byte) : (s.rxPut b).xmSent = s.xmSent := rfl
@[simp] theorem rxPut_brStat (b : Byte) : (s.rxPut b).brStat = s.brStat := rfl
@[simp] theorem rxPut_brTarget (b : Byte) : (s.rxPut b).brTarget = s.brTarget := rfl
@[simp] theorem rxPut_valid (b : Byte) : (s.rxPut b).valid = s.valid := rfl
@[simp] theorem rxPut_crc16 (b : Byte) : (s.rxPut b).crc16 = s.crc16 := rfl
@[simp] theorem rxPut_crc32 (b : Byte) : (s.rxPut b).crc32 = s.crc32 := rfl
@[simp] theorem rxPut_md5 (b : Byte) : (s.rxPut b).md5 = s.md5 := rfl
@[simp] theorem rxPut_sha (b : Byte) : (s.rxPut b).sha = s.sha := rfl
@[simp] theorem rxPut_pbuf (b : Byte) : (s.rxPut b).pbuf = s.pbuf := rfl
@[simp] theorem rxPut_rxq (b : Byte) : (s.rxPut b).rxq = s.rxq ++ [b] := rfl
@[simp] theorem rxPut_tx (b : Byte) : (s.rxPut b).tx = s.tx := rfl
@[simp] theorem rxPut_evt (b : Byte) : (s.rxPut b).evt = s.evt := rfl
@[simp] theorem rxPut_opcur (b : Byte) : (s.rxPut b).opcur = s.opcur := rfl
@[simp] theorem rxPut_cont (b : Byte) : (s.rxPut b).cont = s.cont := rfl
@[simp] theorem rxPut_params (b : Byte) : (s.rxPut b).params = s.params := rfl
@[simp] theorem rxPut_turns (b : Byte) : (s.rxPut b).turns = s.turns := rfl
@[simp] theorem rxPut_env (b : Byte) : (s.rxPut b).env = s.env := rfl
@[simp] theorem rxPut_reply (b : Byte) : (s.rxPut b).reply = s.reply := rfl

/-! ### `rxClear` -/

@[simp] theorem rxClear_x : (s.rxClear).x = s.x := rfl
@[simp] theorem rxClear_status : (s.rxClear).status = s.status := rfl
@[simp] theorem rxClear_info : (s.rxClear).info = s.info := rfl
@[simp] theorem rxClear_ctrl : (s.rxClear).ctrl = s.ctrl := rfl
@[simp] theorem rxClear_baudCur : (s.rxClear).baudCur = s.baudCur := rfl
@[simp] theorem rxClear_xmCfg : (s.rxClear).xmCfg = s.xmCfg := rfl
@[simp] theorem rxClear_xmStat : (s.rxClear).xmStat = s.xmStat := rfl
@[simp] theorem rxClear_xmBase : (s.rxClear).xmBase = s.xmBase := rfl
@[simp] theorem rxClear_xmTotal : (s.rxClear).xmTotal = s.xmTotal := rfl
@[simp] theorem rxClear_xmK : (s.rxClear).xmK = s.xmK := rfl
@[simp] theorem rxClear_xmSent : (s.rxClear).xmSent = s.xmSent := rfl
@[simp] theorem rxClear_brStat : (s.rxClear).brStat = s.brStat := rfl
@[simp] theorem rxClear_brTarget : (s.rxClear).brTarget = s.brTarget := rfl
@[simp] theorem rxClear_valid : (s.rxClear).valid = s.valid := rfl
@[simp] theorem rxClear_crc16 : (s.rxClear).crc16 = s.crc16 := rfl
@[simp] theorem rxClear_crc32 : (s.rxClear).crc32 = s.crc32 := rfl
@[simp] theorem rxClear_md5 : (s.rxClear).md5 = s.md5 := rfl
@[simp] theorem rxClear_sha : (s.rxClear).sha = s.sha := rfl
@[simp] theorem rxClear_pbuf : (s.rxClear).pbuf = s.pbuf := rfl
@[simp] theorem rxClear_rxq : (s.rxClear).rxq = [] := rfl
@[simp] theorem rxClear_tx : (s.rxClear).tx = s.tx := rfl
@[simp] theorem rxClear_evt : (s.rxClear).evt = s.evt := rfl
@[simp] theorem rxClear_opcur : (s.rxClear).opcur = s.opcur := rfl
@[simp] theorem rxClear_cont : (s.rxClear).cont = s.cont := rfl
@[simp] theorem rxClear_params : (s.rxClear).params = s.params := rfl
@[simp] theorem rxClear_turns : (s.rxClear).turns = s.turns := rfl
@[simp] theorem rxClear_env : (s.rxClear).env = s.env := rfl
@[simp] theorem rxClear_reply : (s.rxClear).reply = s.reply := rfl

/-! ### `setBaud` -/

@[simp] theorem setBaud_x (r : Word) : (s.setBaud r).x = s.x := rfl
@[simp] theorem setBaud_status (r : Word) : (s.setBaud r).status = s.status := rfl
@[simp] theorem setBaud_info (r : Word) : (s.setBaud r).info = s.info := rfl
@[simp] theorem setBaud_ctrl (r : Word) : (s.setBaud r).ctrl = s.ctrl := rfl
@[simp] theorem setBaud_baudCur (r : Word) : (s.setBaud r).baudCur = r := rfl
@[simp] theorem setBaud_xmCfg (r : Word) : (s.setBaud r).xmCfg = s.xmCfg := rfl
@[simp] theorem setBaud_xmStat (r : Word) : (s.setBaud r).xmStat = s.xmStat := rfl
@[simp] theorem setBaud_xmBase (r : Word) : (s.setBaud r).xmBase = s.xmBase := rfl
@[simp] theorem setBaud_xmTotal (r : Word) : (s.setBaud r).xmTotal = s.xmTotal := rfl
@[simp] theorem setBaud_xmK (r : Word) : (s.setBaud r).xmK = s.xmK := rfl
@[simp] theorem setBaud_xmSent (r : Word) : (s.setBaud r).xmSent = s.xmSent := rfl
@[simp] theorem setBaud_brStat (r : Word) : (s.setBaud r).brStat = s.brStat := rfl
@[simp] theorem setBaud_brTarget (r : Word) : (s.setBaud r).brTarget = s.brTarget := rfl
@[simp] theorem setBaud_valid (r : Word) : (s.setBaud r).valid = s.valid := rfl
@[simp] theorem setBaud_crc16 (r : Word) : (s.setBaud r).crc16 = s.crc16 := rfl
@[simp] theorem setBaud_crc32 (r : Word) : (s.setBaud r).crc32 = s.crc32 := rfl
@[simp] theorem setBaud_md5 (r : Word) : (s.setBaud r).md5 = s.md5 := rfl
@[simp] theorem setBaud_sha (r : Word) : (s.setBaud r).sha = s.sha := rfl
@[simp] theorem setBaud_pbuf (r : Word) : (s.setBaud r).pbuf = s.pbuf := rfl
@[simp] theorem setBaud_rxq (r : Word) : (s.setBaud r).rxq = s.env.newRxq s.rxq := rfl
@[simp] theorem setBaud_tx (r : Word) : (s.setBaud r).tx = s.tx := rfl
@[simp] theorem setBaud_evt (r : Word) : (s.setBaud r).evt = s.evt := rfl
@[simp] theorem setBaud_opcur (r : Word) : (s.setBaud r).opcur = s.opcur := rfl
@[simp] theorem setBaud_cont (r : Word) : (s.setBaud r).cont = s.cont := rfl
@[simp] theorem setBaud_params (r : Word) : (s.setBaud r).params = s.params := rfl
@[simp] theorem setBaud_turns (r : Word) : (s.setBaud r).turns = s.turns := rfl
@[simp] theorem setBaud_env (r : Word) : (s.setBaud r).env = s.env.afterSetBaud := rfl
@[simp] theorem setBaud_reply (r : Word) : (s.setBaud r).reply = s.reply := rfl

/-! ### `stored` -/

@[simp] theorem stored_x (a : Word) (bs : List Byte) : (s.stored a bs).x = s.x := rfl
@[simp] theorem stored_status (a : Word) (bs : List Byte) : (s.stored a bs).status = s.status := rfl
@[simp] theorem stored_info (a : Word) (bs : List Byte) : (s.stored a bs).info = s.info := rfl
@[simp] theorem stored_ctrl (a : Word) (bs : List Byte) : (s.stored a bs).ctrl = s.ctrl := rfl
@[simp] theorem stored_baudCur (a : Word) (bs : List Byte) : (s.stored a bs).baudCur = s.baudCur := rfl
@[simp] theorem stored_xmCfg (a : Word) (bs : List Byte) : (s.stored a bs).xmCfg = s.xmCfg := rfl
@[simp] theorem stored_xmStat (a : Word) (bs : List Byte) : (s.stored a bs).xmStat = s.xmStat := rfl
@[simp] theorem stored_xmBase (a : Word) (bs : List Byte) : (s.stored a bs).xmBase = s.xmBase := rfl
@[simp] theorem stored_xmTotal (a : Word) (bs : List Byte) : (s.stored a bs).xmTotal = s.xmTotal := rfl
@[simp] theorem stored_xmK (a : Word) (bs : List Byte) : (s.stored a bs).xmK = s.xmK := rfl
@[simp] theorem stored_xmSent (a : Word) (bs : List Byte) : (s.stored a bs).xmSent = s.xmSent := rfl
@[simp] theorem stored_brStat (a : Word) (bs : List Byte) : (s.stored a bs).brStat = s.brStat := rfl
@[simp] theorem stored_brTarget (a : Word) (bs : List Byte) : (s.stored a bs).brTarget = s.brTarget := rfl
@[simp] theorem stored_valid (a : Word) (bs : List Byte) : (s.stored a bs).valid = s.valid := rfl
@[simp] theorem stored_crc16 (a : Word) (bs : List Byte) : (s.stored a bs).crc16 = s.crc16 := rfl
@[simp] theorem stored_crc32 (a : Word) (bs : List Byte) : (s.stored a bs).crc32 = s.crc32 := rfl
@[simp] theorem stored_md5 (a : Word) (bs : List Byte) : (s.stored a bs).md5 = s.md5 := rfl
@[simp] theorem stored_sha (a : Word) (bs : List Byte) : (s.stored a bs).sha = s.sha := rfl
@[simp] theorem stored_pbuf (a : Word) (bs : List Byte) : (s.stored a bs).pbuf = s.pbuf.storeBytes a.toNat bs := rfl
@[simp] theorem stored_rxq (a : Word) (bs : List Byte) : (s.stored a bs).rxq = s.rxq := rfl
@[simp] theorem stored_tx (a : Word) (bs : List Byte) : (s.stored a bs).tx = s.tx := rfl
@[simp] theorem stored_evt (a : Word) (bs : List Byte) : (s.stored a bs).evt = s.evt := rfl
@[simp] theorem stored_opcur (a : Word) (bs : List Byte) : (s.stored a bs).opcur = s.opcur := rfl
@[simp] theorem stored_cont (a : Word) (bs : List Byte) : (s.stored a bs).cont = s.cont := rfl
@[simp] theorem stored_params (a : Word) (bs : List Byte) : (s.stored a bs).params = s.params := rfl
@[simp] theorem stored_turns (a : Word) (bs : List Byte) : (s.stored a bs).turns = s.turns := rfl
@[simp] theorem stored_env (a : Word) (bs : List Byte) : (s.stored a bs).env = s.env := rfl
@[simp] theorem stored_reply (a : Word) (bs : List Byte) : (s.stored a bs).reply = s.reply := rfl

/-! ### `contextReset` -/

@[simp] theorem contextReset_x : (s.contextReset).x = s.x := rfl
@[simp] theorem contextReset_status : (s.contextReset).status = s.status := rfl
@[simp] theorem contextReset_info : (s.contextReset).info = s.info := rfl
@[simp] theorem contextReset_ctrl : (s.contextReset).ctrl = { s.ctrl with cancel := false, stub := false, fault := false, opened := false } := rfl
@[simp] theorem contextReset_baudCur : (s.contextReset).baudCur = Config.baudSafe := rfl
@[simp] theorem contextReset_xmCfg : (s.contextReset).xmCfg = ⟨Config.xmPadReset, Config.xmMaxrReset⟩ := rfl
@[simp] theorem contextReset_xmStat : (s.contextReset).xmStat = ⟨.idle, false, 0#8, 0#8⟩ := rfl
@[simp] theorem contextReset_xmBase : (s.contextReset).xmBase = 0#32 := rfl
@[simp] theorem contextReset_xmTotal : (s.contextReset).xmTotal = 0#32 := rfl
@[simp] theorem contextReset_xmK : (s.contextReset).xmK = 0#32 := rfl
@[simp] theorem contextReset_xmSent : (s.contextReset).xmSent = 0#32 := rfl
@[simp] theorem contextReset_brStat : (s.contextReset).brStat = ⟨.idle, 0#5⟩ := rfl
@[simp] theorem contextReset_brTarget : (s.contextReset).brTarget = 0#32 := rfl
@[simp] theorem contextReset_valid : (s.contextReset).valid = s.valid := rfl
@[simp] theorem contextReset_crc16 : (s.contextReset).crc16 = s.crc16 := rfl
@[simp] theorem contextReset_crc32 : (s.contextReset).crc32 = s.crc32 := rfl
@[simp] theorem contextReset_md5 : (s.contextReset).md5 = s.md5 := rfl
@[simp] theorem contextReset_sha : (s.contextReset).sha = s.sha := rfl
@[simp] theorem contextReset_pbuf : (s.contextReset).pbuf = s.pbuf := rfl
@[simp] theorem contextReset_rxq : (s.contextReset).rxq = [] := rfl
@[simp] theorem contextReset_tx : (s.contextReset).tx = s.tx := rfl
@[simp] theorem contextReset_evt : (s.contextReset).evt = [] := rfl
@[simp] theorem contextReset_opcur : (s.contextReset).opcur = s.opcur := rfl
@[simp] theorem contextReset_cont : (s.contextReset).cont = s.cont := rfl
@[simp] theorem contextReset_params : (s.contextReset).params = s.params := rfl
@[simp] theorem contextReset_turns : (s.contextReset).turns = s.turns := rfl
@[simp] theorem contextReset_env : (s.contextReset).env = s.env := rfl
@[simp] theorem contextReset_reply : (s.contextReset).reply = s.reply := rfl

/-! ### `connectDrawn` -/

@[simp] theorem connectDrawn_x : (s.connectDrawn).x = s.x := rfl
@[simp] theorem connectDrawn_status : (s.connectDrawn).status = s.status := rfl
@[simp] theorem connectDrawn_info : (s.connectDrawn).info = s.info := rfl
@[simp] theorem connectDrawn_ctrl : (s.connectDrawn).ctrl = s.ctrl := rfl
@[simp] theorem connectDrawn_baudCur : (s.connectDrawn).baudCur = s.baudCur := rfl
@[simp] theorem connectDrawn_xmCfg : (s.connectDrawn).xmCfg = s.xmCfg := rfl
@[simp] theorem connectDrawn_xmStat : (s.connectDrawn).xmStat = s.xmStat := rfl
@[simp] theorem connectDrawn_xmBase : (s.connectDrawn).xmBase = s.xmBase := rfl
@[simp] theorem connectDrawn_xmTotal : (s.connectDrawn).xmTotal = s.xmTotal := rfl
@[simp] theorem connectDrawn_xmK : (s.connectDrawn).xmK = s.xmK := rfl
@[simp] theorem connectDrawn_xmSent : (s.connectDrawn).xmSent = s.xmSent := rfl
@[simp] theorem connectDrawn_brStat : (s.connectDrawn).brStat = s.brStat := rfl
@[simp] theorem connectDrawn_brTarget : (s.connectDrawn).brTarget = s.brTarget := rfl
@[simp] theorem connectDrawn_valid : (s.connectDrawn).valid = s.valid := rfl
@[simp] theorem connectDrawn_crc16 : (s.connectDrawn).crc16 = s.crc16 := rfl
@[simp] theorem connectDrawn_crc32 : (s.connectDrawn).crc32 = s.crc32 := rfl
@[simp] theorem connectDrawn_md5 : (s.connectDrawn).md5 = s.md5 := rfl
@[simp] theorem connectDrawn_sha : (s.connectDrawn).sha = s.sha := rfl
@[simp] theorem connectDrawn_pbuf : (s.connectDrawn).pbuf = s.pbuf := rfl
@[simp] theorem connectDrawn_rxq : (s.connectDrawn).rxq = s.rxq := rfl
@[simp] theorem connectDrawn_tx : (s.connectDrawn).tx = s.tx := rfl
@[simp] theorem connectDrawn_evt : (s.connectDrawn).evt = s.evt := rfl
@[simp] theorem connectDrawn_opcur : (s.connectDrawn).opcur = s.opcur := rfl
@[simp] theorem connectDrawn_cont : (s.connectDrawn).cont = s.cont := rfl
@[simp] theorem connectDrawn_params : (s.connectDrawn).params = s.params := rfl
@[simp] theorem connectDrawn_turns : (s.connectDrawn).turns = s.turns := rfl
@[simp] theorem connectDrawn_env : (s.connectDrawn).env = s.env.afterConnect := rfl
@[simp] theorem connectDrawn_reply : (s.connectDrawn).reply = s.reply := rfl

/-! ### `setOpened` -/

@[simp] theorem setOpened_x (b : Bool) : (s.setOpened b).x = s.x := rfl
@[simp] theorem setOpened_status (b : Bool) : (s.setOpened b).status = s.status := rfl
@[simp] theorem setOpened_info (b : Bool) : (s.setOpened b).info = s.info := rfl
@[simp] theorem setOpened_ctrl (b : Bool) : (s.setOpened b).ctrl = { s.ctrl with opened := b } := rfl
@[simp] theorem setOpened_baudCur (b : Bool) : (s.setOpened b).baudCur = s.baudCur := rfl
@[simp] theorem setOpened_xmCfg (b : Bool) : (s.setOpened b).xmCfg = s.xmCfg := rfl
@[simp] theorem setOpened_xmStat (b : Bool) : (s.setOpened b).xmStat = s.xmStat := rfl
@[simp] theorem setOpened_xmBase (b : Bool) : (s.setOpened b).xmBase = s.xmBase := rfl
@[simp] theorem setOpened_xmTotal (b : Bool) : (s.setOpened b).xmTotal = s.xmTotal := rfl
@[simp] theorem setOpened_xmK (b : Bool) : (s.setOpened b).xmK = s.xmK := rfl
@[simp] theorem setOpened_xmSent (b : Bool) : (s.setOpened b).xmSent = s.xmSent := rfl
@[simp] theorem setOpened_brStat (b : Bool) : (s.setOpened b).brStat = s.brStat := rfl
@[simp] theorem setOpened_brTarget (b : Bool) : (s.setOpened b).brTarget = s.brTarget := rfl
@[simp] theorem setOpened_valid (b : Bool) : (s.setOpened b).valid = s.valid := rfl
@[simp] theorem setOpened_crc16 (b : Bool) : (s.setOpened b).crc16 = s.crc16 := rfl
@[simp] theorem setOpened_crc32 (b : Bool) : (s.setOpened b).crc32 = s.crc32 := rfl
@[simp] theorem setOpened_md5 (b : Bool) : (s.setOpened b).md5 = s.md5 := rfl
@[simp] theorem setOpened_sha (b : Bool) : (s.setOpened b).sha = s.sha := rfl
@[simp] theorem setOpened_pbuf (b : Bool) : (s.setOpened b).pbuf = s.pbuf := rfl
@[simp] theorem setOpened_rxq (b : Bool) : (s.setOpened b).rxq = s.rxq := rfl
@[simp] theorem setOpened_tx (b : Bool) : (s.setOpened b).tx = s.tx := rfl
@[simp] theorem setOpened_evt (b : Bool) : (s.setOpened b).evt = s.evt := rfl
@[simp] theorem setOpened_opcur (b : Bool) : (s.setOpened b).opcur = s.opcur := rfl
@[simp] theorem setOpened_cont (b : Bool) : (s.setOpened b).cont = s.cont := rfl
@[simp] theorem setOpened_params (b : Bool) : (s.setOpened b).params = s.params := rfl
@[simp] theorem setOpened_turns (b : Bool) : (s.setOpened b).turns = s.turns := rfl
@[simp] theorem setOpened_env (b : Bool) : (s.setOpened b).env = s.env := rfl
@[simp] theorem setOpened_reply (b : Bool) : (s.setOpened b).reply = s.reply := rfl

/-! ### `crc16Init` -/

@[simp] theorem crc16Init_x (c : Half) : (s.crc16Init c).x = s.x := rfl
@[simp] theorem crc16Init_status (c : Half) : (s.crc16Init c).status = s.status := rfl
@[simp] theorem crc16Init_info (c : Half) : (s.crc16Init c).info = s.info := rfl
@[simp] theorem crc16Init_ctrl (c : Half) : (s.crc16Init c).ctrl = s.ctrl := rfl
@[simp] theorem crc16Init_baudCur (c : Half) : (s.crc16Init c).baudCur = s.baudCur := rfl
@[simp] theorem crc16Init_xmCfg (c : Half) : (s.crc16Init c).xmCfg = s.xmCfg := rfl
@[simp] theorem crc16Init_xmStat (c : Half) : (s.crc16Init c).xmStat = s.xmStat := rfl
@[simp] theorem crc16Init_xmBase (c : Half) : (s.crc16Init c).xmBase = s.xmBase := rfl
@[simp] theorem crc16Init_xmTotal (c : Half) : (s.crc16Init c).xmTotal = s.xmTotal := rfl
@[simp] theorem crc16Init_xmK (c : Half) : (s.crc16Init c).xmK = s.xmK := rfl
@[simp] theorem crc16Init_xmSent (c : Half) : (s.crc16Init c).xmSent = s.xmSent := rfl
@[simp] theorem crc16Init_brStat (c : Half) : (s.crc16Init c).brStat = s.brStat := rfl
@[simp] theorem crc16Init_brTarget (c : Half) : (s.crc16Init c).brTarget = s.brTarget := rfl
@[simp] theorem crc16Init_valid (c : Half) : (s.crc16Init c).valid = { s.valid with v16 := true } := rfl
@[simp] theorem crc16Init_crc16 (c : Half) : (s.crc16Init c).crc16 = c := rfl
@[simp] theorem crc16Init_crc32 (c : Half) : (s.crc16Init c).crc32 = s.crc32 := rfl
@[simp] theorem crc16Init_md5 (c : Half) : (s.crc16Init c).md5 = s.md5 := rfl
@[simp] theorem crc16Init_sha (c : Half) : (s.crc16Init c).sha = s.sha := rfl
@[simp] theorem crc16Init_pbuf (c : Half) : (s.crc16Init c).pbuf = s.pbuf := rfl
@[simp] theorem crc16Init_rxq (c : Half) : (s.crc16Init c).rxq = s.rxq := rfl
@[simp] theorem crc16Init_tx (c : Half) : (s.crc16Init c).tx = s.tx := rfl
@[simp] theorem crc16Init_evt (c : Half) : (s.crc16Init c).evt = s.evt := rfl
@[simp] theorem crc16Init_opcur (c : Half) : (s.crc16Init c).opcur = s.opcur := rfl
@[simp] theorem crc16Init_cont (c : Half) : (s.crc16Init c).cont = s.cont := rfl
@[simp] theorem crc16Init_params (c : Half) : (s.crc16Init c).params = s.params := rfl
@[simp] theorem crc16Init_turns (c : Half) : (s.crc16Init c).turns = s.turns := rfl
@[simp] theorem crc16Init_env (c : Half) : (s.crc16Init c).env = s.env := rfl
@[simp] theorem crc16Init_reply (c : Half) : (s.crc16Init c).reply = s.reply := rfl

/-! ### `setCrc16` -/

@[simp] theorem setCrc16_x (c : Half) : (s.setCrc16 c).x = s.x := rfl
@[simp] theorem setCrc16_status (c : Half) : (s.setCrc16 c).status = s.status := rfl
@[simp] theorem setCrc16_info (c : Half) : (s.setCrc16 c).info = s.info := rfl
@[simp] theorem setCrc16_ctrl (c : Half) : (s.setCrc16 c).ctrl = s.ctrl := rfl
@[simp] theorem setCrc16_baudCur (c : Half) : (s.setCrc16 c).baudCur = s.baudCur := rfl
@[simp] theorem setCrc16_xmCfg (c : Half) : (s.setCrc16 c).xmCfg = s.xmCfg := rfl
@[simp] theorem setCrc16_xmStat (c : Half) : (s.setCrc16 c).xmStat = s.xmStat := rfl
@[simp] theorem setCrc16_xmBase (c : Half) : (s.setCrc16 c).xmBase = s.xmBase := rfl
@[simp] theorem setCrc16_xmTotal (c : Half) : (s.setCrc16 c).xmTotal = s.xmTotal := rfl
@[simp] theorem setCrc16_xmK (c : Half) : (s.setCrc16 c).xmK = s.xmK := rfl
@[simp] theorem setCrc16_xmSent (c : Half) : (s.setCrc16 c).xmSent = s.xmSent := rfl
@[simp] theorem setCrc16_brStat (c : Half) : (s.setCrc16 c).brStat = s.brStat := rfl
@[simp] theorem setCrc16_brTarget (c : Half) : (s.setCrc16 c).brTarget = s.brTarget := rfl
@[simp] theorem setCrc16_valid (c : Half) : (s.setCrc16 c).valid = s.valid := rfl
@[simp] theorem setCrc16_crc16 (c : Half) : (s.setCrc16 c).crc16 = c := rfl
@[simp] theorem setCrc16_crc32 (c : Half) : (s.setCrc16 c).crc32 = s.crc32 := rfl
@[simp] theorem setCrc16_md5 (c : Half) : (s.setCrc16 c).md5 = s.md5 := rfl
@[simp] theorem setCrc16_sha (c : Half) : (s.setCrc16 c).sha = s.sha := rfl
@[simp] theorem setCrc16_pbuf (c : Half) : (s.setCrc16 c).pbuf = s.pbuf := rfl
@[simp] theorem setCrc16_rxq (c : Half) : (s.setCrc16 c).rxq = s.rxq := rfl
@[simp] theorem setCrc16_tx (c : Half) : (s.setCrc16 c).tx = s.tx := rfl
@[simp] theorem setCrc16_evt (c : Half) : (s.setCrc16 c).evt = s.evt := rfl
@[simp] theorem setCrc16_opcur (c : Half) : (s.setCrc16 c).opcur = s.opcur := rfl
@[simp] theorem setCrc16_cont (c : Half) : (s.setCrc16 c).cont = s.cont := rfl
@[simp] theorem setCrc16_params (c : Half) : (s.setCrc16 c).params = s.params := rfl
@[simp] theorem setCrc16_turns (c : Half) : (s.setCrc16 c).turns = s.turns := rfl
@[simp] theorem setCrc16_env (c : Half) : (s.setCrc16 c).env = s.env := rfl
@[simp] theorem setCrc16_reply (c : Half) : (s.setCrc16 c).reply = s.reply := rfl

/-! ### `crc32Init` -/

@[simp] theorem crc32Init_x (c : Word) : (s.crc32Init c).x = s.x := rfl
@[simp] theorem crc32Init_status (c : Word) : (s.crc32Init c).status = s.status := rfl
@[simp] theorem crc32Init_info (c : Word) : (s.crc32Init c).info = s.info := rfl
@[simp] theorem crc32Init_ctrl (c : Word) : (s.crc32Init c).ctrl = s.ctrl := rfl
@[simp] theorem crc32Init_baudCur (c : Word) : (s.crc32Init c).baudCur = s.baudCur := rfl
@[simp] theorem crc32Init_xmCfg (c : Word) : (s.crc32Init c).xmCfg = s.xmCfg := rfl
@[simp] theorem crc32Init_xmStat (c : Word) : (s.crc32Init c).xmStat = s.xmStat := rfl
@[simp] theorem crc32Init_xmBase (c : Word) : (s.crc32Init c).xmBase = s.xmBase := rfl
@[simp] theorem crc32Init_xmTotal (c : Word) : (s.crc32Init c).xmTotal = s.xmTotal := rfl
@[simp] theorem crc32Init_xmK (c : Word) : (s.crc32Init c).xmK = s.xmK := rfl
@[simp] theorem crc32Init_xmSent (c : Word) : (s.crc32Init c).xmSent = s.xmSent := rfl
@[simp] theorem crc32Init_brStat (c : Word) : (s.crc32Init c).brStat = s.brStat := rfl
@[simp] theorem crc32Init_brTarget (c : Word) : (s.crc32Init c).brTarget = s.brTarget := rfl
@[simp] theorem crc32Init_valid (c : Word) : (s.crc32Init c).valid = { s.valid with v32 := true } := rfl
@[simp] theorem crc32Init_crc16 (c : Word) : (s.crc32Init c).crc16 = s.crc16 := rfl
@[simp] theorem crc32Init_crc32 (c : Word) : (s.crc32Init c).crc32 = c := rfl
@[simp] theorem crc32Init_md5 (c : Word) : (s.crc32Init c).md5 = s.md5 := rfl
@[simp] theorem crc32Init_sha (c : Word) : (s.crc32Init c).sha = s.sha := rfl
@[simp] theorem crc32Init_pbuf (c : Word) : (s.crc32Init c).pbuf = s.pbuf := rfl
@[simp] theorem crc32Init_rxq (c : Word) : (s.crc32Init c).rxq = s.rxq := rfl
@[simp] theorem crc32Init_tx (c : Word) : (s.crc32Init c).tx = s.tx := rfl
@[simp] theorem crc32Init_evt (c : Word) : (s.crc32Init c).evt = s.evt := rfl
@[simp] theorem crc32Init_opcur (c : Word) : (s.crc32Init c).opcur = s.opcur := rfl
@[simp] theorem crc32Init_cont (c : Word) : (s.crc32Init c).cont = s.cont := rfl
@[simp] theorem crc32Init_params (c : Word) : (s.crc32Init c).params = s.params := rfl
@[simp] theorem crc32Init_turns (c : Word) : (s.crc32Init c).turns = s.turns := rfl
@[simp] theorem crc32Init_env (c : Word) : (s.crc32Init c).env = s.env := rfl
@[simp] theorem crc32Init_reply (c : Word) : (s.crc32Init c).reply = s.reply := rfl

/-! ### `setCrc32` -/

@[simp] theorem setCrc32_x (c : Word) : (s.setCrc32 c).x = s.x := rfl
@[simp] theorem setCrc32_status (c : Word) : (s.setCrc32 c).status = s.status := rfl
@[simp] theorem setCrc32_info (c : Word) : (s.setCrc32 c).info = s.info := rfl
@[simp] theorem setCrc32_ctrl (c : Word) : (s.setCrc32 c).ctrl = s.ctrl := rfl
@[simp] theorem setCrc32_baudCur (c : Word) : (s.setCrc32 c).baudCur = s.baudCur := rfl
@[simp] theorem setCrc32_xmCfg (c : Word) : (s.setCrc32 c).xmCfg = s.xmCfg := rfl
@[simp] theorem setCrc32_xmStat (c : Word) : (s.setCrc32 c).xmStat = s.xmStat := rfl
@[simp] theorem setCrc32_xmBase (c : Word) : (s.setCrc32 c).xmBase = s.xmBase := rfl
@[simp] theorem setCrc32_xmTotal (c : Word) : (s.setCrc32 c).xmTotal = s.xmTotal := rfl
@[simp] theorem setCrc32_xmK (c : Word) : (s.setCrc32 c).xmK = s.xmK := rfl
@[simp] theorem setCrc32_xmSent (c : Word) : (s.setCrc32 c).xmSent = s.xmSent := rfl
@[simp] theorem setCrc32_brStat (c : Word) : (s.setCrc32 c).brStat = s.brStat := rfl
@[simp] theorem setCrc32_brTarget (c : Word) : (s.setCrc32 c).brTarget = s.brTarget := rfl
@[simp] theorem setCrc32_valid (c : Word) : (s.setCrc32 c).valid = s.valid := rfl
@[simp] theorem setCrc32_crc16 (c : Word) : (s.setCrc32 c).crc16 = s.crc16 := rfl
@[simp] theorem setCrc32_crc32 (c : Word) : (s.setCrc32 c).crc32 = c := rfl
@[simp] theorem setCrc32_md5 (c : Word) : (s.setCrc32 c).md5 = s.md5 := rfl
@[simp] theorem setCrc32_sha (c : Word) : (s.setCrc32 c).sha = s.sha := rfl
@[simp] theorem setCrc32_pbuf (c : Word) : (s.setCrc32 c).pbuf = s.pbuf := rfl
@[simp] theorem setCrc32_rxq (c : Word) : (s.setCrc32 c).rxq = s.rxq := rfl
@[simp] theorem setCrc32_tx (c : Word) : (s.setCrc32 c).tx = s.tx := rfl
@[simp] theorem setCrc32_evt (c : Word) : (s.setCrc32 c).evt = s.evt := rfl
@[simp] theorem setCrc32_opcur (c : Word) : (s.setCrc32 c).opcur = s.opcur := rfl
@[simp] theorem setCrc32_cont (c : Word) : (s.setCrc32 c).cont = s.cont := rfl
@[simp] theorem setCrc32_params (c : Word) : (s.setCrc32 c).params = s.params := rfl
@[simp] theorem setCrc32_turns (c : Word) : (s.setCrc32 c).turns = s.turns := rfl
@[simp] theorem setCrc32_env (c : Word) : (s.setCrc32 c).env = s.env := rfl
@[simp] theorem setCrc32_reply (c : Word) : (s.setCrc32 c).reply = s.reply := rfl

/-! ### `setMd5` -/

@[simp] theorem setMd5_x (u : Md5Unit) : (s.setMd5 u).x = s.x := rfl
@[simp] theorem setMd5_status (u : Md5Unit) : (s.setMd5 u).status = s.status := rfl
@[simp] theorem setMd5_info (u : Md5Unit) : (s.setMd5 u).info = s.info := rfl
@[simp] theorem setMd5_ctrl (u : Md5Unit) : (s.setMd5 u).ctrl = s.ctrl := rfl
@[simp] theorem setMd5_baudCur (u : Md5Unit) : (s.setMd5 u).baudCur = s.baudCur := rfl
@[simp] theorem setMd5_xmCfg (u : Md5Unit) : (s.setMd5 u).xmCfg = s.xmCfg := rfl
@[simp] theorem setMd5_xmStat (u : Md5Unit) : (s.setMd5 u).xmStat = s.xmStat := rfl
@[simp] theorem setMd5_xmBase (u : Md5Unit) : (s.setMd5 u).xmBase = s.xmBase := rfl
@[simp] theorem setMd5_xmTotal (u : Md5Unit) : (s.setMd5 u).xmTotal = s.xmTotal := rfl
@[simp] theorem setMd5_xmK (u : Md5Unit) : (s.setMd5 u).xmK = s.xmK := rfl
@[simp] theorem setMd5_xmSent (u : Md5Unit) : (s.setMd5 u).xmSent = s.xmSent := rfl
@[simp] theorem setMd5_brStat (u : Md5Unit) : (s.setMd5 u).brStat = s.brStat := rfl
@[simp] theorem setMd5_brTarget (u : Md5Unit) : (s.setMd5 u).brTarget = s.brTarget := rfl
@[simp] theorem setMd5_valid (u : Md5Unit) : (s.setMd5 u).valid = s.valid := rfl
@[simp] theorem setMd5_crc16 (u : Md5Unit) : (s.setMd5 u).crc16 = s.crc16 := rfl
@[simp] theorem setMd5_crc32 (u : Md5Unit) : (s.setMd5 u).crc32 = s.crc32 := rfl
@[simp] theorem setMd5_md5 (u : Md5Unit) : (s.setMd5 u).md5 = u := rfl
@[simp] theorem setMd5_sha (u : Md5Unit) : (s.setMd5 u).sha = s.sha := rfl
@[simp] theorem setMd5_pbuf (u : Md5Unit) : (s.setMd5 u).pbuf = s.pbuf := rfl
@[simp] theorem setMd5_rxq (u : Md5Unit) : (s.setMd5 u).rxq = s.rxq := rfl
@[simp] theorem setMd5_tx (u : Md5Unit) : (s.setMd5 u).tx = s.tx := rfl
@[simp] theorem setMd5_evt (u : Md5Unit) : (s.setMd5 u).evt = s.evt := rfl
@[simp] theorem setMd5_opcur (u : Md5Unit) : (s.setMd5 u).opcur = s.opcur := rfl
@[simp] theorem setMd5_cont (u : Md5Unit) : (s.setMd5 u).cont = s.cont := rfl
@[simp] theorem setMd5_params (u : Md5Unit) : (s.setMd5 u).params = s.params := rfl
@[simp] theorem setMd5_turns (u : Md5Unit) : (s.setMd5 u).turns = s.turns := rfl
@[simp] theorem setMd5_env (u : Md5Unit) : (s.setMd5 u).env = s.env := rfl
@[simp] theorem setMd5_reply (u : Md5Unit) : (s.setMd5 u).reply = s.reply := rfl

/-! ### `setVmd5` -/

@[simp] theorem setVmd5_x (v : Bool) : (s.setVmd5 v).x = s.x := rfl
@[simp] theorem setVmd5_status (v : Bool) : (s.setVmd5 v).status = s.status := rfl
@[simp] theorem setVmd5_info (v : Bool) : (s.setVmd5 v).info = s.info := rfl
@[simp] theorem setVmd5_ctrl (v : Bool) : (s.setVmd5 v).ctrl = s.ctrl := rfl
@[simp] theorem setVmd5_baudCur (v : Bool) : (s.setVmd5 v).baudCur = s.baudCur := rfl
@[simp] theorem setVmd5_xmCfg (v : Bool) : (s.setVmd5 v).xmCfg = s.xmCfg := rfl
@[simp] theorem setVmd5_xmStat (v : Bool) : (s.setVmd5 v).xmStat = s.xmStat := rfl
@[simp] theorem setVmd5_xmBase (v : Bool) : (s.setVmd5 v).xmBase = s.xmBase := rfl
@[simp] theorem setVmd5_xmTotal (v : Bool) : (s.setVmd5 v).xmTotal = s.xmTotal := rfl
@[simp] theorem setVmd5_xmK (v : Bool) : (s.setVmd5 v).xmK = s.xmK := rfl
@[simp] theorem setVmd5_xmSent (v : Bool) : (s.setVmd5 v).xmSent = s.xmSent := rfl
@[simp] theorem setVmd5_brStat (v : Bool) : (s.setVmd5 v).brStat = s.brStat := rfl
@[simp] theorem setVmd5_brTarget (v : Bool) : (s.setVmd5 v).brTarget = s.brTarget := rfl
@[simp] theorem setVmd5_valid (v : Bool) : (s.setVmd5 v).valid = { s.valid with vmd5 := v } := rfl
@[simp] theorem setVmd5_crc16 (v : Bool) : (s.setVmd5 v).crc16 = s.crc16 := rfl
@[simp] theorem setVmd5_crc32 (v : Bool) : (s.setVmd5 v).crc32 = s.crc32 := rfl
@[simp] theorem setVmd5_md5 (v : Bool) : (s.setVmd5 v).md5 = s.md5 := rfl
@[simp] theorem setVmd5_sha (v : Bool) : (s.setVmd5 v).sha = s.sha := rfl
@[simp] theorem setVmd5_pbuf (v : Bool) : (s.setVmd5 v).pbuf = s.pbuf := rfl
@[simp] theorem setVmd5_rxq (v : Bool) : (s.setVmd5 v).rxq = s.rxq := rfl
@[simp] theorem setVmd5_tx (v : Bool) : (s.setVmd5 v).tx = s.tx := rfl
@[simp] theorem setVmd5_evt (v : Bool) : (s.setVmd5 v).evt = s.evt := rfl
@[simp] theorem setVmd5_opcur (v : Bool) : (s.setVmd5 v).opcur = s.opcur := rfl
@[simp] theorem setVmd5_cont (v : Bool) : (s.setVmd5 v).cont = s.cont := rfl
@[simp] theorem setVmd5_params (v : Bool) : (s.setVmd5 v).params = s.params := rfl
@[simp] theorem setVmd5_turns (v : Bool) : (s.setVmd5 v).turns = s.turns := rfl
@[simp] theorem setVmd5_env (v : Bool) : (s.setVmd5 v).env = s.env := rfl
@[simp] theorem setVmd5_reply (v : Bool) : (s.setVmd5 v).reply = s.reply := rfl

/-! ### `freeMd5Buf` -/

@[simp] theorem freeMd5Buf_x : (s.freeMd5Buf).x = s.x := rfl
@[simp] theorem freeMd5Buf_status : (s.freeMd5Buf).status = s.status := rfl
@[simp] theorem freeMd5Buf_info : (s.freeMd5Buf).info = s.info := rfl
@[simp] theorem freeMd5Buf_ctrl : (s.freeMd5Buf).ctrl = s.ctrl := rfl
@[simp] theorem freeMd5Buf_baudCur : (s.freeMd5Buf).baudCur = s.baudCur := rfl
@[simp] theorem freeMd5Buf_xmCfg : (s.freeMd5Buf).xmCfg = s.xmCfg := rfl
@[simp] theorem freeMd5Buf_xmStat : (s.freeMd5Buf).xmStat = s.xmStat := rfl
@[simp] theorem freeMd5Buf_xmBase : (s.freeMd5Buf).xmBase = s.xmBase := rfl
@[simp] theorem freeMd5Buf_xmTotal : (s.freeMd5Buf).xmTotal = s.xmTotal := rfl
@[simp] theorem freeMd5Buf_xmK : (s.freeMd5Buf).xmK = s.xmK := rfl
@[simp] theorem freeMd5Buf_xmSent : (s.freeMd5Buf).xmSent = s.xmSent := rfl
@[simp] theorem freeMd5Buf_brStat : (s.freeMd5Buf).brStat = s.brStat := rfl
@[simp] theorem freeMd5Buf_brTarget : (s.freeMd5Buf).brTarget = s.brTarget := rfl
@[simp] theorem freeMd5Buf_valid : (s.freeMd5Buf).valid = s.valid := rfl
@[simp] theorem freeMd5Buf_crc16 : (s.freeMd5Buf).crc16 = s.crc16 := rfl
@[simp] theorem freeMd5Buf_crc32 : (s.freeMd5Buf).crc32 = s.crc32 := rfl
@[simp] theorem freeMd5Buf_md5 : (s.freeMd5Buf).md5 = { s.md5 with buf := Config.md5BufAfterFin s.env.drawn } := rfl
@[simp] theorem freeMd5Buf_sha : (s.freeMd5Buf).sha = s.sha := rfl
@[simp] theorem freeMd5Buf_pbuf : (s.freeMd5Buf).pbuf = s.pbuf := rfl
@[simp] theorem freeMd5Buf_rxq : (s.freeMd5Buf).rxq = s.rxq := rfl
@[simp] theorem freeMd5Buf_tx : (s.freeMd5Buf).tx = s.tx := rfl
@[simp] theorem freeMd5Buf_evt : (s.freeMd5Buf).evt = s.evt := rfl
@[simp] theorem freeMd5Buf_opcur : (s.freeMd5Buf).opcur = s.opcur := rfl
@[simp] theorem freeMd5Buf_cont : (s.freeMd5Buf).cont = s.cont := rfl
@[simp] theorem freeMd5Buf_params : (s.freeMd5Buf).params = s.params := rfl
@[simp] theorem freeMd5Buf_turns : (s.freeMd5Buf).turns = s.turns := rfl
@[simp] theorem freeMd5Buf_env : (s.freeMd5Buf).env = s.env.afterFree := rfl
@[simp] theorem freeMd5Buf_reply : (s.freeMd5Buf).reply = s.reply := rfl

/-! ### `md5Finished` -/

@[simp] theorem md5Finished_x : (s.md5Finished).x = s.x := rfl
@[simp] theorem md5Finished_status : (s.md5Finished).status = s.status := rfl
@[simp] theorem md5Finished_info : (s.md5Finished).info = s.info := rfl
@[simp] theorem md5Finished_ctrl : (s.md5Finished).ctrl = s.ctrl := rfl
@[simp] theorem md5Finished_baudCur : (s.md5Finished).baudCur = s.baudCur := rfl
@[simp] theorem md5Finished_xmCfg : (s.md5Finished).xmCfg = s.xmCfg := rfl
@[simp] theorem md5Finished_xmStat : (s.md5Finished).xmStat = s.xmStat := rfl
@[simp] theorem md5Finished_xmBase : (s.md5Finished).xmBase = s.xmBase := rfl
@[simp] theorem md5Finished_xmTotal : (s.md5Finished).xmTotal = s.xmTotal := rfl
@[simp] theorem md5Finished_xmK : (s.md5Finished).xmK = s.xmK := rfl
@[simp] theorem md5Finished_xmSent : (s.md5Finished).xmSent = s.xmSent := rfl
@[simp] theorem md5Finished_brStat : (s.md5Finished).brStat = s.brStat := rfl
@[simp] theorem md5Finished_brTarget : (s.md5Finished).brTarget = s.brTarget := rfl
@[simp] theorem md5Finished_valid : (s.md5Finished).valid = s.valid := rfl
@[simp] theorem md5Finished_crc16 : (s.md5Finished).crc16 = s.crc16 := rfl
@[simp] theorem md5Finished_crc32 : (s.md5Finished).crc32 = s.crc32 := rfl
@[simp] theorem md5Finished_md5 : (s.md5Finished).md5 = { s.md5 with words := md5Absorb s.md5.words s.md5.tail } := rfl
@[simp] theorem md5Finished_sha : (s.md5Finished).sha = s.sha := rfl
@[simp] theorem md5Finished_pbuf : (s.md5Finished).pbuf = s.pbuf := rfl
@[simp] theorem md5Finished_rxq : (s.md5Finished).rxq = s.rxq := rfl
@[simp] theorem md5Finished_tx : (s.md5Finished).tx = s.tx := rfl
@[simp] theorem md5Finished_evt : (s.md5Finished).evt = s.evt := rfl
@[simp] theorem md5Finished_opcur : (s.md5Finished).opcur = s.opcur := rfl
@[simp] theorem md5Finished_cont : (s.md5Finished).cont = s.cont := rfl
@[simp] theorem md5Finished_params : (s.md5Finished).params = s.params := rfl
@[simp] theorem md5Finished_turns : (s.md5Finished).turns = s.turns := rfl
@[simp] theorem md5Finished_env : (s.md5Finished).env = s.env := rfl
@[simp] theorem md5Finished_reply : (s.md5Finished).reply = s.reply := rfl

/-! ### `setSha` -/

@[simp] theorem setSha_x (u : ShaUnit) : (s.setSha u).x = s.x := rfl
@[simp] theorem setSha_status (u : ShaUnit) : (s.setSha u).status = s.status := rfl
@[simp] theorem setSha_info (u : ShaUnit) : (s.setSha u).info = s.info := rfl
@[simp] theorem setSha_ctrl (u : ShaUnit) : (s.setSha u).ctrl = s.ctrl := rfl
@[simp] theorem setSha_baudCur (u : ShaUnit) : (s.setSha u).baudCur = s.baudCur := rfl
@[simp] theorem setSha_xmCfg (u : ShaUnit) : (s.setSha u).xmCfg = s.xmCfg := rfl
@[simp] theorem setSha_xmStat (u : ShaUnit) : (s.setSha u).xmStat = s.xmStat := rfl
@[simp] theorem setSha_xmBase (u : ShaUnit) : (s.setSha u).xmBase = s.xmBase := rfl
@[simp] theorem setSha_xmTotal (u : ShaUnit) : (s.setSha u).xmTotal = s.xmTotal := rfl
@[simp] theorem setSha_xmK (u : ShaUnit) : (s.setSha u).xmK = s.xmK := rfl
@[simp] theorem setSha_xmSent (u : ShaUnit) : (s.setSha u).xmSent = s.xmSent := rfl
@[simp] theorem setSha_brStat (u : ShaUnit) : (s.setSha u).brStat = s.brStat := rfl
@[simp] theorem setSha_brTarget (u : ShaUnit) : (s.setSha u).brTarget = s.brTarget := rfl
@[simp] theorem setSha_valid (u : ShaUnit) : (s.setSha u).valid = s.valid := rfl
@[simp] theorem setSha_crc16 (u : ShaUnit) : (s.setSha u).crc16 = s.crc16 := rfl
@[simp] theorem setSha_crc32 (u : ShaUnit) : (s.setSha u).crc32 = s.crc32 := rfl
@[simp] theorem setSha_md5 (u : ShaUnit) : (s.setSha u).md5 = s.md5 := rfl
@[simp] theorem setSha_sha (u : ShaUnit) : (s.setSha u).sha = u := rfl
@[simp] theorem setSha_pbuf (u : ShaUnit) : (s.setSha u).pbuf = s.pbuf := rfl
@[simp] theorem setSha_rxq (u : ShaUnit) : (s.setSha u).rxq = s.rxq := rfl
@[simp] theorem setSha_tx (u : ShaUnit) : (s.setSha u).tx = s.tx := rfl
@[simp] theorem setSha_evt (u : ShaUnit) : (s.setSha u).evt = s.evt := rfl
@[simp] theorem setSha_opcur (u : ShaUnit) : (s.setSha u).opcur = s.opcur := rfl
@[simp] theorem setSha_cont (u : ShaUnit) : (s.setSha u).cont = s.cont := rfl
@[simp] theorem setSha_params (u : ShaUnit) : (s.setSha u).params = s.params := rfl
@[simp] theorem setSha_turns (u : ShaUnit) : (s.setSha u).turns = s.turns := rfl
@[simp] theorem setSha_env (u : ShaUnit) : (s.setSha u).env = s.env := rfl
@[simp] theorem setSha_reply (u : ShaUnit) : (s.setSha u).reply = s.reply := rfl

/-! ### `setVsha` -/

@[simp] theorem setVsha_x (v : Bool) : (s.setVsha v).x = s.x := rfl
@[simp] theorem setVsha_status (v : Bool) : (s.setVsha v).status = s.status := rfl
@[simp] theorem setVsha_info (v : Bool) : (s.setVsha v).info = s.info := rfl
@[simp] theorem setVsha_ctrl (v : Bool) : (s.setVsha v).ctrl = s.ctrl := rfl
@[simp] theorem setVsha_baudCur (v : Bool) : (s.setVsha v).baudCur = s.baudCur := rfl
@[simp] theorem setVsha_xmCfg (v : Bool) : (s.setVsha v).xmCfg = s.xmCfg := rfl
@[simp] theorem setVsha_xmStat (v : Bool) : (s.setVsha v).xmStat = s.xmStat := rfl
@[simp] theorem setVsha_xmBase (v : Bool) : (s.setVsha v).xmBase = s.xmBase := rfl
@[simp] theorem setVsha_xmTotal (v : Bool) : (s.setVsha v).xmTotal = s.xmTotal := rfl
@[simp] theorem setVsha_xmK (v : Bool) : (s.setVsha v).xmK = s.xmK := rfl
@[simp] theorem setVsha_xmSent (v : Bool) : (s.setVsha v).xmSent = s.xmSent := rfl
@[simp] theorem setVsha_brStat (v : Bool) : (s.setVsha v).brStat = s.brStat := rfl
@[simp] theorem setVsha_brTarget (v : Bool) : (s.setVsha v).brTarget = s.brTarget := rfl
@[simp] theorem setVsha_valid (v : Bool) : (s.setVsha v).valid = { s.valid with vsha := v } := rfl
@[simp] theorem setVsha_crc16 (v : Bool) : (s.setVsha v).crc16 = s.crc16 := rfl
@[simp] theorem setVsha_crc32 (v : Bool) : (s.setVsha v).crc32 = s.crc32 := rfl
@[simp] theorem setVsha_md5 (v : Bool) : (s.setVsha v).md5 = s.md5 := rfl
@[simp] theorem setVsha_sha (v : Bool) : (s.setVsha v).sha = s.sha := rfl
@[simp] theorem setVsha_pbuf (v : Bool) : (s.setVsha v).pbuf = s.pbuf := rfl
@[simp] theorem setVsha_rxq (v : Bool) : (s.setVsha v).rxq = s.rxq := rfl
@[simp] theorem setVsha_tx (v : Bool) : (s.setVsha v).tx = s.tx := rfl
@[simp] theorem setVsha_evt (v : Bool) : (s.setVsha v).evt = s.evt := rfl
@[simp] theorem setVsha_opcur (v : Bool) : (s.setVsha v).opcur = s.opcur := rfl
@[simp] theorem setVsha_cont (v : Bool) : (s.setVsha v).cont = s.cont := rfl
@[simp] theorem setVsha_params (v : Bool) : (s.setVsha v).params = s.params := rfl
@[simp] theorem setVsha_turns (v : Bool) : (s.setVsha v).turns = s.turns := rfl
@[simp] theorem setVsha_env (v : Bool) : (s.setVsha v).env = s.env := rfl
@[simp] theorem setVsha_reply (v : Bool) : (s.setVsha v).reply = s.reply := rfl

/-! ### `freeShaBuf` -/

@[simp] theorem freeShaBuf_x : (s.freeShaBuf).x = s.x := rfl
@[simp] theorem freeShaBuf_status : (s.freeShaBuf).status = s.status := rfl
@[simp] theorem freeShaBuf_info : (s.freeShaBuf).info = s.info := rfl
@[simp] theorem freeShaBuf_ctrl : (s.freeShaBuf).ctrl = s.ctrl := rfl
@[simp] theorem freeShaBuf_baudCur : (s.freeShaBuf).baudCur = s.baudCur := rfl
@[simp] theorem freeShaBuf_xmCfg : (s.freeShaBuf).xmCfg = s.xmCfg := rfl
@[simp] theorem freeShaBuf_xmStat : (s.freeShaBuf).xmStat = s.xmStat := rfl
@[simp] theorem freeShaBuf_xmBase : (s.freeShaBuf).xmBase = s.xmBase := rfl
@[simp] theorem freeShaBuf_xmTotal : (s.freeShaBuf).xmTotal = s.xmTotal := rfl
@[simp] theorem freeShaBuf_xmK : (s.freeShaBuf).xmK = s.xmK := rfl
@[simp] theorem freeShaBuf_xmSent : (s.freeShaBuf).xmSent = s.xmSent := rfl
@[simp] theorem freeShaBuf_brStat : (s.freeShaBuf).brStat = s.brStat := rfl
@[simp] theorem freeShaBuf_brTarget : (s.freeShaBuf).brTarget = s.brTarget := rfl
@[simp] theorem freeShaBuf_valid : (s.freeShaBuf).valid = s.valid := rfl
@[simp] theorem freeShaBuf_crc16 : (s.freeShaBuf).crc16 = s.crc16 := rfl
@[simp] theorem freeShaBuf_crc32 : (s.freeShaBuf).crc32 = s.crc32 := rfl
@[simp] theorem freeShaBuf_md5 : (s.freeShaBuf).md5 = s.md5 := rfl
@[simp] theorem freeShaBuf_sha : (s.freeShaBuf).sha = { s.sha with buf := Config.shaBufAfterFin s.env.drawn } := rfl
@[simp] theorem freeShaBuf_pbuf : (s.freeShaBuf).pbuf = s.pbuf := rfl
@[simp] theorem freeShaBuf_rxq : (s.freeShaBuf).rxq = s.rxq := rfl
@[simp] theorem freeShaBuf_tx : (s.freeShaBuf).tx = s.tx := rfl
@[simp] theorem freeShaBuf_evt : (s.freeShaBuf).evt = s.evt := rfl
@[simp] theorem freeShaBuf_opcur : (s.freeShaBuf).opcur = s.opcur := rfl
@[simp] theorem freeShaBuf_cont : (s.freeShaBuf).cont = s.cont := rfl
@[simp] theorem freeShaBuf_params : (s.freeShaBuf).params = s.params := rfl
@[simp] theorem freeShaBuf_turns : (s.freeShaBuf).turns = s.turns := rfl
@[simp] theorem freeShaBuf_env : (s.freeShaBuf).env = s.env.afterFree := rfl
@[simp] theorem freeShaBuf_reply : (s.freeShaBuf).reply = s.reply := rfl

/-! ### `shaFinished` -/

@[simp] theorem shaFinished_x : (s.shaFinished).x = s.x := rfl
@[simp] theorem shaFinished_status : (s.shaFinished).status = s.status := rfl
@[simp] theorem shaFinished_info : (s.shaFinished).info = s.info := rfl
@[simp] theorem shaFinished_ctrl : (s.shaFinished).ctrl = s.ctrl := rfl
@[simp] theorem shaFinished_baudCur : (s.shaFinished).baudCur = s.baudCur := rfl
@[simp] theorem shaFinished_xmCfg : (s.shaFinished).xmCfg = s.xmCfg := rfl
@[simp] theorem shaFinished_xmStat : (s.shaFinished).xmStat = s.xmStat := rfl
@[simp] theorem shaFinished_xmBase : (s.shaFinished).xmBase = s.xmBase := rfl
@[simp] theorem shaFinished_xmTotal : (s.shaFinished).xmTotal = s.xmTotal := rfl
@[simp] theorem shaFinished_xmK : (s.shaFinished).xmK = s.xmK := rfl
@[simp] theorem shaFinished_xmSent : (s.shaFinished).xmSent = s.xmSent := rfl
@[simp] theorem shaFinished_brStat : (s.shaFinished).brStat = s.brStat := rfl
@[simp] theorem shaFinished_brTarget : (s.shaFinished).brTarget = s.brTarget := rfl
@[simp] theorem shaFinished_valid : (s.shaFinished).valid = s.valid := rfl
@[simp] theorem shaFinished_crc16 : (s.shaFinished).crc16 = s.crc16 := rfl
@[simp] theorem shaFinished_crc32 : (s.shaFinished).crc32 = s.crc32 := rfl
@[simp] theorem shaFinished_md5 : (s.shaFinished).md5 = s.md5 := rfl
@[simp] theorem shaFinished_sha : (s.shaFinished).sha = { s.sha with words := shaAbsorb s.sha.words s.sha.tail } := rfl
@[simp] theorem shaFinished_pbuf : (s.shaFinished).pbuf = s.pbuf := rfl
@[simp] theorem shaFinished_rxq : (s.shaFinished).rxq = s.rxq := rfl
@[simp] theorem shaFinished_tx : (s.shaFinished).tx = s.tx := rfl
@[simp] theorem shaFinished_evt : (s.shaFinished).evt = s.evt := rfl
@[simp] theorem shaFinished_opcur : (s.shaFinished).opcur = s.opcur := rfl
@[simp] theorem shaFinished_cont : (s.shaFinished).cont = s.cont := rfl
@[simp] theorem shaFinished_params : (s.shaFinished).params = s.params := rfl
@[simp] theorem shaFinished_turns : (s.shaFinished).turns = s.turns := rfl
@[simp] theorem shaFinished_env : (s.shaFinished).env = s.env := rfl
@[simp] theorem shaFinished_reply : (s.shaFinished).reply = s.reply := rfl

/-! ### `xmSetState` -/

@[simp] theorem xmSetState_x (v : XmState) : (s.xmSetState v).x = s.x := rfl
@[simp] theorem xmSetState_status (v : XmState) : (s.xmSetState v).status = s.status := rfl
@[simp] theorem xmSetState_info (v : XmState) : (s.xmSetState v).info = s.info := rfl
@[simp] theorem xmSetState_ctrl (v : XmState) : (s.xmSetState v).ctrl = s.ctrl := rfl
@[simp] theorem xmSetState_baudCur (v : XmState) : (s.xmSetState v).baudCur = s.baudCur := rfl
@[simp] theorem xmSetState_xmCfg (v : XmState) : (s.xmSetState v).xmCfg = s.xmCfg := rfl
@[simp] theorem xmSetState_xmStat (v : XmState) : (s.xmSetState v).xmStat = { s.xmStat with state := v } := rfl
@[simp] theorem xmSetState_xmBase (v : XmState) : (s.xmSetState v).xmBase = s.xmBase := rfl
@[simp] theorem xmSetState_xmTotal (v : XmState) : (s.xmSetState v).xmTotal = s.xmTotal := rfl
@[simp] theorem xmSetState_xmK (v : XmState) : (s.xmSetState v).xmK = s.xmK := rfl
@[simp] theorem xmSetState_xmSent (v : XmState) : (s.xmSetState v).xmSent = s.xmSent := rfl
@[simp] theorem xmSetState_brStat (v : XmState) : (s.xmSetState v).brStat = s.brStat := rfl
@[simp] theorem xmSetState_brTarget (v : XmState) : (s.xmSetState v).brTarget = s.brTarget := rfl
@[simp] theorem xmSetState_valid (v : XmState) : (s.xmSetState v).valid = s.valid := rfl
@[simp] theorem xmSetState_crc16 (v : XmState) : (s.xmSetState v).crc16 = s.crc16 := rfl
@[simp] theorem xmSetState_crc32 (v : XmState) : (s.xmSetState v).crc32 = s.crc32 := rfl
@[simp] theorem xmSetState_md5 (v : XmState) : (s.xmSetState v).md5 = s.md5 := rfl
@[simp] theorem xmSetState_sha (v : XmState) : (s.xmSetState v).sha = s.sha := rfl
@[simp] theorem xmSetState_pbuf (v : XmState) : (s.xmSetState v).pbuf = s.pbuf := rfl
@[simp] theorem xmSetState_rxq (v : XmState) : (s.xmSetState v).rxq = s.rxq := rfl
@[simp] theorem xmSetState_tx (v : XmState) : (s.xmSetState v).tx = s.tx := rfl
@[simp] theorem xmSetState_evt (v : XmState) : (s.xmSetState v).evt = s.evt := rfl
@[simp] theorem xmSetState_opcur (v : XmState) : (s.xmSetState v).opcur = s.opcur := rfl
@[simp] theorem xmSetState_cont (v : XmState) : (s.xmSetState v).cont = s.cont := rfl
@[simp] theorem xmSetState_params (v : XmState) : (s.xmSetState v).params = s.params := rfl
@[simp] theorem xmSetState_turns (v : XmState) : (s.xmSetState v).turns = s.turns := rfl
@[simp] theorem xmSetState_env (v : XmState) : (s.xmSetState v).env = s.env := rfl
@[simp] theorem xmSetState_reply (v : XmState) : (s.xmSetState v).reply = s.reply := rfl

/-! ### `xmSetMode` -/

@[simp] theorem xmSetMode_x (m : Bool) : (s.xmSetMode m).x = s.x := rfl
@[simp] theorem xmSetMode_status (m : Bool) : (s.xmSetMode m).status = s.status := rfl
@[simp] theorem xmSetMode_info (m : Bool) : (s.xmSetMode m).info = s.info := rfl
@[simp] theorem xmSetMode_ctrl (m : Bool) : (s.xmSetMode m).ctrl = s.ctrl := rfl
@[simp] theorem xmSetMode_baudCur (m : Bool) : (s.xmSetMode m).baudCur = s.baudCur := rfl
@[simp] theorem xmSetMode_xmCfg (m : Bool) : (s.xmSetMode m).xmCfg = s.xmCfg := rfl
@[simp] theorem xmSetMode_xmStat (m : Bool) : (s.xmSetMode m).xmStat = { s.xmStat with mode := m } := rfl
@[simp] theorem xmSetMode_xmBase (m : Bool) : (s.xmSetMode m).xmBase = s.xmBase := rfl
@[simp] theorem xmSetMode_xmTotal (m : Bool) : (s.xmSetMode m).xmTotal = s.xmTotal := rfl
@[simp] theorem xmSetMode_xmK (m : Bool) : (s.xmSetMode m).xmK = s.xmK := rfl
@[simp] theorem xmSetMode_xmSent (m : Bool) : (s.xmSetMode m).xmSent = s.xmSent := rfl
@[simp] theorem xmSetMode_brStat (m : Bool) : (s.xmSetMode m).brStat = s.brStat := rfl
@[simp] theorem xmSetMode_brTarget (m : Bool) : (s.xmSetMode m).brTarget = s.brTarget := rfl
@[simp] theorem xmSetMode_valid (m : Bool) : (s.xmSetMode m).valid = s.valid := rfl
@[simp] theorem xmSetMode_crc16 (m : Bool) : (s.xmSetMode m).crc16 = s.crc16 := rfl
@[simp] theorem xmSetMode_crc32 (m : Bool) : (s.xmSetMode m).crc32 = s.crc32 := rfl
@[simp] theorem xmSetMode_md5 (m : Bool) : (s.xmSetMode m).md5 = s.md5 := rfl
@[simp] theorem xmSetMode_sha (m : Bool) : (s.xmSetMode m).sha = s.sha := rfl
@[simp] theorem xmSetMode_pbuf (m : Bool) : (s.xmSetMode m).pbuf = s.pbuf := rfl
@[simp] theorem xmSetMode_rxq (m : Bool) : (s.xmSetMode m).rxq = s.rxq := rfl
@[simp] theorem xmSetMode_tx (m : Bool) : (s.xmSetMode m).tx = s.tx := rfl
@[simp] theorem xmSetMode_evt (m : Bool) : (s.xmSetMode m).evt = s.evt := rfl
@[simp] theorem xmSetMode_opcur (m : Bool) : (s.xmSetMode m).opcur = s.opcur := rfl
@[simp] theorem xmSetMode_cont (m : Bool) : (s.xmSetMode m).cont = s.cont := rfl
@[simp] theorem xmSetMode_params (m : Bool) : (s.xmSetMode m).params = s.params := rfl
@[simp] theorem xmSetMode_turns (m : Bool) : (s.xmSetMode m).turns = s.turns := rfl
@[simp] theorem xmSetMode_env (m : Bool) : (s.xmSetMode m).env = s.env := rfl
@[simp] theorem xmSetMode_reply (m : Bool) : (s.xmSetMode m).reply = s.reply := rfl

/-! ### `xmSetBlk` -/

@[simp] theorem xmSetBlk_x (b : Byte) : (s.xmSetBlk b).x = s.x := rfl
@[simp] theorem xmSetBlk_status (b : Byte) : (s.xmSetBlk b).status = s.status := rfl
@[simp] theorem xmSetBlk_info (b : Byte) : (s.xmSetBlk b).info = s.info := rfl
@[simp] theorem xmSetBlk_ctrl (b : Byte) : (s.xmSetBlk b).ctrl = s.ctrl := rfl
@[simp] theorem xmSetBlk_baudCur (b : Byte) : (s.xmSetBlk b).baudCur = s.baudCur := rfl
@[simp] theorem xmSetBlk_xmCfg (b : Byte) : (s.xmSetBlk b).xmCfg = s.xmCfg := rfl
@[simp] theorem xmSetBlk_xmStat (b : Byte) : (s.xmSetBlk b).xmStat = { s.xmStat with blk := b } := rfl
@[simp] theorem xmSetBlk_xmBase (b : Byte) : (s.xmSetBlk b).xmBase = s.xmBase := rfl
@[simp] theorem xmSetBlk_xmTotal (b : Byte) : (s.xmSetBlk b).xmTotal = s.xmTotal := rfl
@[simp] theorem xmSetBlk_xmK (b : Byte) : (s.xmSetBlk b).xmK = s.xmK := rfl
@[simp] theorem xmSetBlk_xmSent (b : Byte) : (s.xmSetBlk b).xmSent = s.xmSent := rfl
@[simp] theorem xmSetBlk_brStat (b : Byte) : (s.xmSetBlk b).brStat = s.brStat := rfl
@[simp] theorem xmSetBlk_brTarget (b : Byte) : (s.xmSetBlk b).brTarget = s.brTarget := rfl
@[simp] theorem xmSetBlk_valid (b : Byte) : (s.xmSetBlk b).valid = s.valid := rfl
@[simp] theorem xmSetBlk_crc16 (b : Byte) : (s.xmSetBlk b).crc16 = s.crc16 := rfl
@[simp] theorem xmSetBlk_crc32 (b : Byte) : (s.xmSetBlk b).crc32 = s.crc32 := rfl
@[simp] theorem xmSetBlk_md5 (b : Byte) : (s.xmSetBlk b).md5 = s.md5 := rfl
@[simp] theorem xmSetBlk_sha (b : Byte) : (s.xmSetBlk b).sha = s.sha := rfl
@[simp] theorem xmSetBlk_pbuf (b : Byte) : (s.xmSetBlk b).pbuf = s.pbuf := rfl
@[simp] theorem xmSetBlk_rxq (b : Byte) : (s.xmSetBlk b).rxq = s.rxq := rfl
@[simp] theorem xmSetBlk_tx (b : Byte) : (s.xmSetBlk b).tx = s.tx := rfl
@[simp] theorem xmSetBlk_evt (b : Byte) : (s.xmSetBlk b).evt = s.evt := rfl
@[simp] theorem xmSetBlk_opcur (b : Byte) : (s.xmSetBlk b).opcur = s.opcur := rfl
@[simp] theorem xmSetBlk_cont (b : Byte) : (s.xmSetBlk b).cont = s.cont := rfl
@[simp] theorem xmSetBlk_params (b : Byte) : (s.xmSetBlk b).params = s.params := rfl
@[simp] theorem xmSetBlk_turns (b : Byte) : (s.xmSetBlk b).turns = s.turns := rfl
@[simp] theorem xmSetBlk_env (b : Byte) : (s.xmSetBlk b).env = s.env := rfl
@[simp] theorem xmSetBlk_reply (b : Byte) : (s.xmSetBlk b).reply = s.reply := rfl

/-! ### `xmSetRetry` -/

@[simp] theorem xmSetRetry_x (r : Byte) : (s.xmSetRetry r).x = s.x := rfl
@[simp] theorem xmSetRetry_status (r : Byte) : (s.xmSetRetry r).status = s.status := rfl
@[simp] theorem xmSetRetry_info (r : Byte) : (s.xmSetRetry r).info = s.info := rfl
@[simp] theorem xmSetRetry_ctrl (r : Byte) : (s.xmSetRetry r).ctrl = s.ctrl := rfl
@[simp] theorem xmSetRetry_baudCur (r : Byte) : (s.xmSetRetry r).baudCur = s.baudCur := rfl
@[simp] theorem xmSetRetry_xmCfg (r : Byte) : (s.xmSetRetry r).xmCfg = s.xmCfg := rfl
@[simp] theorem xmSetRetry_xmStat (r : Byte) : (s.xmSetRetry r).xmStat = { s.xmStat with retry := r } := rfl
@[simp] theorem xmSetRetry_xmBase (r : Byte) : (s.xmSetRetry r).xmBase = s.xmBase := rfl
@[simp] theorem xmSetRetry_xmTotal (r : Byte) : (s.xmSetRetry r).xmTotal = s.xmTotal := rfl
@[simp] theorem xmSetRetry_xmK (r : Byte) : (s.xmSetRetry r).xmK = s.xmK := rfl
@[simp] theorem xmSetRetry_xmSent (r : Byte) : (s.xmSetRetry r).xmSent = s.xmSent := rfl
@[simp] theorem xmSetRetry_brStat (r : Byte) : (s.xmSetRetry r).brStat = s.brStat := rfl
@[simp] theorem xmSetRetry_brTarget (r : Byte) : (s.xmSetRetry r).brTarget = s.brTarget := rfl
@[simp] theorem xmSetRetry_valid (r : Byte) : (s.xmSetRetry r).valid = s.valid := rfl
@[simp] theorem xmSetRetry_crc16 (r : Byte) : (s.xmSetRetry r).crc16 = s.crc16 := rfl
@[simp] theorem xmSetRetry_crc32 (r : Byte) : (s.xmSetRetry r).crc32 = s.crc32 := rfl
@[simp] theorem xmSetRetry_md5 (r : Byte) : (s.xmSetRetry r).md5 = s.md5 := rfl
@[simp] theorem xmSetRetry_sha (r : Byte) : (s.xmSetRetry r).sha = s.sha := rfl
@[simp] theorem xmSetRetry_pbuf (r : Byte) : (s.xmSetRetry r).pbuf = s.pbuf := rfl
@[simp] theorem xmSetRetry_rxq (r : Byte) : (s.xmSetRetry r).rxq = s.rxq := rfl
@[simp] theorem xmSetRetry_tx (r : Byte) : (s.xmSetRetry r).tx = s.tx := rfl
@[simp] theorem xmSetRetry_evt (r : Byte) : (s.xmSetRetry r).evt = s.evt := rfl
@[simp] theorem xmSetRetry_opcur (r : Byte) : (s.xmSetRetry r).opcur = s.opcur := rfl
@[simp] theorem xmSetRetry_cont (r : Byte) : (s.xmSetRetry r).cont = s.cont := rfl
@[simp] theorem xmSetRetry_params (r : Byte) : (s.xmSetRetry r).params = s.params := rfl
@[simp] theorem xmSetRetry_turns (r : Byte) : (s.xmSetRetry r).turns = s.turns := rfl
@[simp] theorem xmSetRetry_env (r : Byte) : (s.xmSetRetry r).env = s.env := rfl
@[simp] theorem xmSetRetry_reply (r : Byte) : (s.xmSetRetry r).reply = s.reply := rfl

/-! ### `xmLatch` -/

@[simp] theorem xmLatch_x : (s.xmLatch).x = s.x := rfl
@[simp] theorem xmLatch_status : (s.xmLatch).status = s.status := rfl
@[simp] theorem xmLatch_info : (s.xmLatch).info = s.info := rfl
@[simp] theorem xmLatch_ctrl : (s.xmLatch).ctrl = s.ctrl := rfl
@[simp] theorem xmLatch_baudCur : (s.xmLatch).baudCur = s.baudCur := rfl
@[simp] theorem xmLatch_xmCfg : (s.xmLatch).xmCfg = s.xmCfg := rfl
@[simp] theorem xmLatch_xmStat : (s.xmLatch).xmStat = ⟨.waitInit, false, 0#8, 0#8⟩ := rfl
@[simp] theorem xmLatch_xmBase : (s.xmLatch).xmBase = s.x.x0 := rfl
@[simp] theorem xmLatch_xmTotal : (s.xmLatch).xmTotal = s.x.x1 := rfl
@[simp] theorem xmLatch_xmK : (s.xmLatch).xmK = 0#32 := rfl
@[simp] theorem xmLatch_xmSent : (s.xmLatch).xmSent = 0#32 := rfl
@[simp] theorem xmLatch_brStat : (s.xmLatch).brStat = s.brStat := rfl
@[simp] theorem xmLatch_brTarget : (s.xmLatch).brTarget = s.brTarget := rfl
@[simp] theorem xmLatch_valid : (s.xmLatch).valid = s.valid := rfl
@[simp] theorem xmLatch_crc16 : (s.xmLatch).crc16 = s.crc16 := rfl
@[simp] theorem xmLatch_crc32 : (s.xmLatch).crc32 = s.crc32 := rfl
@[simp] theorem xmLatch_md5 : (s.xmLatch).md5 = s.md5 := rfl
@[simp] theorem xmLatch_sha : (s.xmLatch).sha = s.sha := rfl
@[simp] theorem xmLatch_pbuf : (s.xmLatch).pbuf = s.pbuf := rfl
@[simp] theorem xmLatch_rxq : (s.xmLatch).rxq = s.rxq := rfl
@[simp] theorem xmLatch_tx : (s.xmLatch).tx = s.tx := rfl
@[simp] theorem xmLatch_evt : (s.xmLatch).evt = s.evt := rfl
@[simp] theorem xmLatch_opcur : (s.xmLatch).opcur = s.opcur := rfl
@[simp] theorem xmLatch_cont : (s.xmLatch).cont = s.cont := rfl
@[simp] theorem xmLatch_params : (s.xmLatch).params = s.params := rfl
@[simp] theorem xmLatch_turns : (s.xmLatch).turns = s.turns := rfl
@[simp] theorem xmLatch_env : (s.xmLatch).env = s.env := rfl
@[simp] theorem xmLatch_reply : (s.xmLatch).reply = s.reply := rfl

/-! ### `xmAdvance` -/

@[simp] theorem xmAdvance_x : (s.xmAdvance).x = s.x := rfl
@[simp] theorem xmAdvance_status : (s.xmAdvance).status = s.status := rfl
@[simp] theorem xmAdvance_info : (s.xmAdvance).info = s.info := rfl
@[simp] theorem xmAdvance_ctrl : (s.xmAdvance).ctrl = s.ctrl := rfl
@[simp] theorem xmAdvance_baudCur : (s.xmAdvance).baudCur = s.baudCur := rfl
@[simp] theorem xmAdvance_xmCfg : (s.xmAdvance).xmCfg = s.xmCfg := rfl
@[simp] theorem xmAdvance_xmStat : (s.xmAdvance).xmStat = s.xmStat := rfl
@[simp] theorem xmAdvance_xmBase : (s.xmAdvance).xmBase = s.xmBase := rfl
@[simp] theorem xmAdvance_xmTotal : (s.xmAdvance).xmTotal = s.xmTotal := rfl
@[simp] theorem xmAdvance_xmK : (s.xmAdvance).xmK = s.xmK + 1#32 := rfl
@[simp] theorem xmAdvance_xmSent : (s.xmAdvance).xmSent = BitVec.ofNat 32 (min ((s.xmK.toNat + 1) * Config.xmBlock) s.xmTotal.toNat) := rfl
@[simp] theorem xmAdvance_brStat : (s.xmAdvance).brStat = s.brStat := rfl
@[simp] theorem xmAdvance_brTarget : (s.xmAdvance).brTarget = s.brTarget := rfl
@[simp] theorem xmAdvance_valid : (s.xmAdvance).valid = s.valid := rfl
@[simp] theorem xmAdvance_crc16 : (s.xmAdvance).crc16 = s.crc16 := rfl
@[simp] theorem xmAdvance_crc32 : (s.xmAdvance).crc32 = s.crc32 := rfl
@[simp] theorem xmAdvance_md5 : (s.xmAdvance).md5 = s.md5 := rfl
@[simp] theorem xmAdvance_sha : (s.xmAdvance).sha = s.sha := rfl
@[simp] theorem xmAdvance_pbuf : (s.xmAdvance).pbuf = s.pbuf := rfl
@[simp] theorem xmAdvance_rxq : (s.xmAdvance).rxq = s.rxq := rfl
@[simp] theorem xmAdvance_tx : (s.xmAdvance).tx = s.tx := rfl
@[simp] theorem xmAdvance_evt : (s.xmAdvance).evt = s.evt := rfl
@[simp] theorem xmAdvance_opcur : (s.xmAdvance).opcur = s.opcur := rfl
@[simp] theorem xmAdvance_cont : (s.xmAdvance).cont = s.cont := rfl
@[simp] theorem xmAdvance_params : (s.xmAdvance).params = s.params := rfl
@[simp] theorem xmAdvance_turns : (s.xmAdvance).turns = s.turns := rfl
@[simp] theorem xmAdvance_env : (s.xmAdvance).env = s.env := rfl
@[simp] theorem xmAdvance_reply : (s.xmAdvance).reply = s.reply := rfl

/-! ### `brSetState` -/

@[simp] theorem brSetState_x (v : BrState) : (s.brSetState v).x = s.x := rfl
@[simp] theorem brSetState_status (v : BrState) : (s.brSetState v).status = s.status := rfl
@[simp] theorem brSetState_info (v : BrState) : (s.brSetState v).info = s.info := rfl
@[simp] theorem brSetState_ctrl (v : BrState) : (s.brSetState v).ctrl = s.ctrl := rfl
@[simp] theorem brSetState_baudCur (v : BrState) : (s.brSetState v).baudCur = s.baudCur := rfl
@[simp] theorem brSetState_xmCfg (v : BrState) : (s.brSetState v).xmCfg = s.xmCfg := rfl
@[simp] theorem brSetState_xmStat (v : BrState) : (s.brSetState v).xmStat = s.xmStat := rfl
@[simp] theorem brSetState_xmBase (v : BrState) : (s.brSetState v).xmBase = s.xmBase := rfl
@[simp] theorem brSetState_xmTotal (v : BrState) : (s.brSetState v).xmTotal = s.xmTotal := rfl
@[simp] theorem brSetState_xmK (v : BrState) : (s.brSetState v).xmK = s.xmK := rfl
@[simp] theorem brSetState_xmSent (v : BrState) : (s.brSetState v).xmSent = s.xmSent := rfl
@[simp] theorem brSetState_brStat (v : BrState) : (s.brSetState v).brStat = { s.brStat with state := v } := rfl
@[simp] theorem brSetState_brTarget (v : BrState) : (s.brSetState v).brTarget = s.brTarget := rfl
@[simp] theorem brSetState_valid (v : BrState) : (s.brSetState v).valid = s.valid := rfl
@[simp] theorem brSetState_crc16 (v : BrState) : (s.brSetState v).crc16 = s.crc16 := rfl
@[simp] theorem brSetState_crc32 (v : BrState) : (s.brSetState v).crc32 = s.crc32 := rfl
@[simp] theorem brSetState_md5 (v : BrState) : (s.brSetState v).md5 = s.md5 := rfl
@[simp] theorem brSetState_sha (v : BrState) : (s.brSetState v).sha = s.sha := rfl
@[simp] theorem brSetState_pbuf (v : BrState) : (s.brSetState v).pbuf = s.pbuf := rfl
@[simp] theorem brSetState_rxq (v : BrState) : (s.brSetState v).rxq = s.rxq := rfl
@[simp] theorem brSetState_tx (v : BrState) : (s.brSetState v).tx = s.tx := rfl
@[simp] theorem brSetState_evt (v : BrState) : (s.brSetState v).evt = s.evt := rfl
@[simp] theorem brSetState_opcur (v : BrState) : (s.brSetState v).opcur = s.opcur := rfl
@[simp] theorem brSetState_cont (v : BrState) : (s.brSetState v).cont = s.cont := rfl
@[simp] theorem brSetState_params (v : BrState) : (s.brSetState v).params = s.params := rfl
@[simp] theorem brSetState_turns (v : BrState) : (s.brSetState v).turns = s.turns := rfl
@[simp] theorem brSetState_env (v : BrState) : (s.brSetState v).env = s.env := rfl
@[simp] theorem brSetState_reply (v : BrState) : (s.brSetState v).reply = s.reply := rfl

/-! ### `brSetAttempt` -/

@[simp] theorem brSetAttempt_x (n : BitVec 5) : (s.brSetAttempt n).x = s.x := rfl
@[simp] theorem brSetAttempt_status (n : BitVec 5) : (s.brSetAttempt n).status = s.status := rfl
@[simp] theorem brSetAttempt_info (n : BitVec 5) : (s.brSetAttempt n).info = s.info := rfl
@[simp] theorem brSetAttempt_ctrl (n : BitVec 5) : (s.brSetAttempt n).ctrl = s.ctrl := rfl
@[simp] theorem brSetAttempt_baudCur (n : BitVec 5) : (s.brSetAttempt n).baudCur = s.baudCur := rfl
@[simp] theorem brSetAttempt_xmCfg (n : BitVec 5) : (s.brSetAttempt n).xmCfg = s.xmCfg := rfl
@[simp] theorem brSetAttempt_xmStat (n : BitVec 5) : (s.brSetAttempt n).xmStat = s.xmStat := rfl
@[simp] theorem brSetAttempt_xmBase (n : BitVec 5) : (s.brSetAttempt n).xmBase = s.xmBase := rfl
@[simp] theorem brSetAttempt_xmTotal (n : BitVec 5) : (s.brSetAttempt n).xmTotal = s.xmTotal := rfl
@[simp] theorem brSetAttempt_xmK (n : BitVec 5) : (s.brSetAttempt n).xmK = s.xmK := rfl
@[simp] theorem brSetAttempt_xmSent (n : BitVec 5) : (s.brSetAttempt n).xmSent = s.xmSent := rfl
@[simp] theorem brSetAttempt_brStat (n : BitVec 5) : (s.brSetAttempt n).brStat = { s.brStat with attempt := n } := rfl
@[simp] theorem brSetAttempt_brTarget (n : BitVec 5) : (s.brSetAttempt n).brTarget = s.brTarget := rfl
@[simp] theorem brSetAttempt_valid (n : BitVec 5) : (s.brSetAttempt n).valid = s.valid := rfl
@[simp] theorem brSetAttempt_crc16 (n : BitVec 5) : (s.brSetAttempt n).crc16 = s.crc16 := rfl
@[simp] theorem brSetAttempt_crc32 (n : BitVec 5) : (s.brSetAttempt n).crc32 = s.crc32 := rfl
@[simp] theorem brSetAttempt_md5 (n : BitVec 5) : (s.brSetAttempt n).md5 = s.md5 := rfl
@[simp] theorem brSetAttempt_sha (n : BitVec 5) : (s.brSetAttempt n).sha = s.sha := rfl
@[simp] theorem brSetAttempt_pbuf (n : BitVec 5) : (s.brSetAttempt n).pbuf = s.pbuf := rfl
@[simp] theorem brSetAttempt_rxq (n : BitVec 5) : (s.brSetAttempt n).rxq = s.rxq := rfl
@[simp] theorem brSetAttempt_tx (n : BitVec 5) : (s.brSetAttempt n).tx = s.tx := rfl
@[simp] theorem brSetAttempt_evt (n : BitVec 5) : (s.brSetAttempt n).evt = s.evt := rfl
@[simp] theorem brSetAttempt_opcur (n : BitVec 5) : (s.brSetAttempt n).opcur = s.opcur := rfl
@[simp] theorem brSetAttempt_cont (n : BitVec 5) : (s.brSetAttempt n).cont = s.cont := rfl
@[simp] theorem brSetAttempt_params (n : BitVec 5) : (s.brSetAttempt n).params = s.params := rfl
@[simp] theorem brSetAttempt_turns (n : BitVec 5) : (s.brSetAttempt n).turns = s.turns := rfl
@[simp] theorem brSetAttempt_env (n : BitVec 5) : (s.brSetAttempt n).env = s.env := rfl
@[simp] theorem brSetAttempt_reply (n : BitVec 5) : (s.brSetAttempt n).reply = s.reply := rfl

/-! ### `brLatch` -/

@[simp] theorem brLatch_x : (s.brLatch).x = s.x := rfl
@[simp] theorem brLatch_status : (s.brLatch).status = s.status := rfl
@[simp] theorem brLatch_info : (s.brLatch).info = s.info := rfl
@[simp] theorem brLatch_ctrl : (s.brLatch).ctrl = s.ctrl := rfl
@[simp] theorem brLatch_baudCur : (s.brLatch).baudCur = s.baudCur := rfl
@[simp] theorem brLatch_xmCfg : (s.brLatch).xmCfg = s.xmCfg := rfl
@[simp] theorem brLatch_xmStat : (s.brLatch).xmStat = s.xmStat := rfl
@[simp] theorem brLatch_xmBase : (s.brLatch).xmBase = s.xmBase := rfl
@[simp] theorem brLatch_xmTotal : (s.brLatch).xmTotal = s.xmTotal := rfl
@[simp] theorem brLatch_xmK : (s.brLatch).xmK = s.xmK := rfl
@[simp] theorem brLatch_xmSent : (s.brLatch).xmSent = s.xmSent := rfl
@[simp] theorem brLatch_brStat : (s.brLatch).brStat = ⟨.idle, 0#5⟩ := rfl
@[simp] theorem brLatch_brTarget : (s.brLatch).brTarget = s.x.x2 := rfl
@[simp] theorem brLatch_valid : (s.brLatch).valid = s.valid := rfl
@[simp] theorem brLatch_crc16 : (s.brLatch).crc16 = s.crc16 := rfl
@[simp] theorem brLatch_crc32 : (s.brLatch).crc32 = s.crc32 := rfl
@[simp] theorem brLatch_md5 : (s.brLatch).md5 = s.md5 := rfl
@[simp] theorem brLatch_sha : (s.brLatch).sha = s.sha := rfl
@[simp] theorem brLatch_pbuf : (s.brLatch).pbuf = s.pbuf := rfl
@[simp] theorem brLatch_rxq : (s.brLatch).rxq = s.rxq := rfl
@[simp] theorem brLatch_tx : (s.brLatch).tx = s.tx := rfl
@[simp] theorem brLatch_evt : (s.brLatch).evt = s.evt := rfl
@[simp] theorem brLatch_opcur : (s.brLatch).opcur = s.opcur := rfl
@[simp] theorem brLatch_cont : (s.brLatch).cont = s.cont := rfl
@[simp] theorem brLatch_params : (s.brLatch).params = s.params := rfl
@[simp] theorem brLatch_turns : (s.brLatch).turns = s.turns := rfl
@[simp] theorem brLatch_env : (s.brLatch).env = s.env := rfl
@[simp] theorem brLatch_reply : (s.brLatch).reply = s.reply := rfl

/-! ### `accept` -/

@[simp] theorem accept_x (w : Half) : (s.accept w).x = s.x := rfl
@[simp] theorem accept_status (w : Half) : (s.accept w).status = s.status := rfl
@[simp] theorem accept_info (w : Half) : (s.accept w).info = s.info := rfl
@[simp] theorem accept_ctrl (w : Half) : (s.accept w).ctrl = { s.ctrl with busy := true } := rfl
@[simp] theorem accept_baudCur (w : Half) : (s.accept w).baudCur = s.baudCur := rfl
@[simp] theorem accept_xmCfg (w : Half) : (s.accept w).xmCfg = s.xmCfg := rfl
@[simp] theorem accept_xmStat (w : Half) : (s.accept w).xmStat = s.xmStat := rfl
@[simp] theorem accept_xmBase (w : Half) : (s.accept w).xmBase = s.xmBase := rfl
@[simp] theorem accept_xmTotal (w : Half) : (s.accept w).xmTotal = s.xmTotal := rfl
@[simp] theorem accept_xmK (w : Half) : (s.accept w).xmK = s.xmK := rfl
@[simp] theorem accept_xmSent (w : Half) : (s.accept w).xmSent = s.xmSent := rfl
@[simp] theorem accept_brStat (w : Half) : (s.accept w).brStat = s.brStat := rfl
@[simp] theorem accept_brTarget (w : Half) : (s.accept w).brTarget = s.brTarget := rfl
@[simp] theorem accept_valid (w : Half) : (s.accept w).valid = s.valid := rfl
@[simp] theorem accept_crc16 (w : Half) : (s.accept w).crc16 = s.crc16 := rfl
@[simp] theorem accept_crc32 (w : Half) : (s.accept w).crc32 = s.crc32 := rfl
@[simp] theorem accept_md5 (w : Half) : (s.accept w).md5 = s.md5 := rfl
@[simp] theorem accept_sha (w : Half) : (s.accept w).sha = s.sha := rfl
@[simp] theorem accept_pbuf (w : Half) : (s.accept w).pbuf = s.pbuf := rfl
@[simp] theorem accept_rxq (w : Half) : (s.accept w).rxq = s.rxq := rfl
@[simp] theorem accept_tx (w : Half) : (s.accept w).tx = s.tx := rfl
@[simp] theorem accept_evt (w : Half) : (s.accept w).evt = s.evt := rfl
@[simp] theorem accept_opcur (w : Half) : (s.accept w).opcur = some w := rfl
@[simp] theorem accept_cont (w : Half) : (s.accept w).cont = none := rfl
@[simp] theorem accept_params (w : Half) : (s.accept w).params = s.params := rfl
@[simp] theorem accept_turns (w : Half) : (s.accept w).turns = s.turns := rfl
@[simp] theorem accept_env (w : Half) : (s.accept w).env = s.env := rfl
@[simp] theorem accept_reply (w : Half) : (s.accept w).reply = .accepted := rfl

/-! ### `setTurns` -/

@[simp] theorem setTurns_x (ts : List Turn) : (s.setTurns ts).x = s.x := rfl
@[simp] theorem setTurns_status (ts : List Turn) : (s.setTurns ts).status = s.status := rfl
@[simp] theorem setTurns_info (ts : List Turn) : (s.setTurns ts).info = s.info := rfl
@[simp] theorem setTurns_ctrl (ts : List Turn) : (s.setTurns ts).ctrl = s.ctrl := rfl
@[simp] theorem setTurns_baudCur (ts : List Turn) : (s.setTurns ts).baudCur = s.baudCur := rfl
@[simp] theorem setTurns_xmCfg (ts : List Turn) : (s.setTurns ts).xmCfg = s.xmCfg := rfl
@[simp] theorem setTurns_xmStat (ts : List Turn) : (s.setTurns ts).xmStat = s.xmStat := rfl
@[simp] theorem setTurns_xmBase (ts : List Turn) : (s.setTurns ts).xmBase = s.xmBase := rfl
@[simp] theorem setTurns_xmTotal (ts : List Turn) : (s.setTurns ts).xmTotal = s.xmTotal := rfl
@[simp] theorem setTurns_xmK (ts : List Turn) : (s.setTurns ts).xmK = s.xmK := rfl
@[simp] theorem setTurns_xmSent (ts : List Turn) : (s.setTurns ts).xmSent = s.xmSent := rfl
@[simp] theorem setTurns_brStat (ts : List Turn) : (s.setTurns ts).brStat = s.brStat := rfl
@[simp] theorem setTurns_brTarget (ts : List Turn) : (s.setTurns ts).brTarget = s.brTarget := rfl
@[simp] theorem setTurns_valid (ts : List Turn) : (s.setTurns ts).valid = s.valid := rfl
@[simp] theorem setTurns_crc16 (ts : List Turn) : (s.setTurns ts).crc16 = s.crc16 := rfl
@[simp] theorem setTurns_crc32 (ts : List Turn) : (s.setTurns ts).crc32 = s.crc32 := rfl
@[simp] theorem setTurns_md5 (ts : List Turn) : (s.setTurns ts).md5 = s.md5 := rfl
@[simp] theorem setTurns_sha (ts : List Turn) : (s.setTurns ts).sha = s.sha := rfl
@[simp] theorem setTurns_pbuf (ts : List Turn) : (s.setTurns ts).pbuf = s.pbuf := rfl
@[simp] theorem setTurns_rxq (ts : List Turn) : (s.setTurns ts).rxq = s.rxq := rfl
@[simp] theorem setTurns_tx (ts : List Turn) : (s.setTurns ts).tx = s.tx := rfl
@[simp] theorem setTurns_evt (ts : List Turn) : (s.setTurns ts).evt = s.evt := rfl
@[simp] theorem setTurns_opcur (ts : List Turn) : (s.setTurns ts).opcur = s.opcur := rfl
@[simp] theorem setTurns_cont (ts : List Turn) : (s.setTurns ts).cont = s.cont := rfl
@[simp] theorem setTurns_params (ts : List Turn) : (s.setTurns ts).params = s.params := rfl
@[simp] theorem setTurns_turns (ts : List Turn) : (s.setTurns ts).turns = ts := rfl
@[simp] theorem setTurns_env (ts : List Turn) : (s.setTurns ts).env = s.env := rfl
@[simp] theorem setTurns_reply (ts : List Turn) : (s.setTurns ts).reply = s.reply := rfl

/-! ### `replied` -/

@[simp] theorem replied_x (r : HostReply) : (s.replied r).x = s.x := rfl
@[simp] theorem replied_status (r : HostReply) : (s.replied r).status = s.status := rfl
@[simp] theorem replied_info (r : HostReply) : (s.replied r).info = s.info := rfl
@[simp] theorem replied_ctrl (r : HostReply) : (s.replied r).ctrl = s.ctrl := rfl
@[simp] theorem replied_baudCur (r : HostReply) : (s.replied r).baudCur = s.baudCur := rfl
@[simp] theorem replied_xmCfg (r : HostReply) : (s.replied r).xmCfg = s.xmCfg := rfl
@[simp] theorem replied_xmStat (r : HostReply) : (s.replied r).xmStat = s.xmStat := rfl
@[simp] theorem replied_xmBase (r : HostReply) : (s.replied r).xmBase = s.xmBase := rfl
@[simp] theorem replied_xmTotal (r : HostReply) : (s.replied r).xmTotal = s.xmTotal := rfl
@[simp] theorem replied_xmK (r : HostReply) : (s.replied r).xmK = s.xmK := rfl
@[simp] theorem replied_xmSent (r : HostReply) : (s.replied r).xmSent = s.xmSent := rfl
@[simp] theorem replied_brStat (r : HostReply) : (s.replied r).brStat = s.brStat := rfl
@[simp] theorem replied_brTarget (r : HostReply) : (s.replied r).brTarget = s.brTarget := rfl
@[simp] theorem replied_valid (r : HostReply) : (s.replied r).valid = s.valid := rfl
@[simp] theorem replied_crc16 (r : HostReply) : (s.replied r).crc16 = s.crc16 := rfl
@[simp] theorem replied_crc32 (r : HostReply) : (s.replied r).crc32 = s.crc32 := rfl
@[simp] theorem replied_md5 (r : HostReply) : (s.replied r).md5 = s.md5 := rfl
@[simp] theorem replied_sha (r : HostReply) : (s.replied r).sha = s.sha := rfl
@[simp] theorem replied_pbuf (r : HostReply) : (s.replied r).pbuf = s.pbuf := rfl
@[simp] theorem replied_rxq (r : HostReply) : (s.replied r).rxq = s.rxq := rfl
@[simp] theorem replied_tx (r : HostReply) : (s.replied r).tx = s.tx := rfl
@[simp] theorem replied_evt (r : HostReply) : (s.replied r).evt = s.evt := rfl
@[simp] theorem replied_opcur (r : HostReply) : (s.replied r).opcur = s.opcur := rfl
@[simp] theorem replied_cont (r : HostReply) : (s.replied r).cont = s.cont := rfl
@[simp] theorem replied_params (r : HostReply) : (s.replied r).params = s.params := rfl
@[simp] theorem replied_turns (r : HostReply) : (s.replied r).turns = s.turns := rfl
@[simp] theorem replied_env (r : HostReply) : (s.replied r).env = s.env := rfl
@[simp] theorem replied_reply (r : HostReply) : (s.replied r).reply = r := rfl

/-! ### `setX` -/

@[simp] theorem setX_x (i : Fin 8) (v : Word) : (s.setX i v).x = s.x.set i v := rfl
@[simp] theorem setX_status (i : Fin 8) (v : Word) : (s.setX i v).status = s.status := rfl
@[simp] theorem setX_info (i : Fin 8) (v : Word) : (s.setX i v).info = s.info := rfl
@[simp] theorem setX_ctrl (i : Fin 8) (v : Word) : (s.setX i v).ctrl = s.ctrl := rfl
@[simp] theorem setX_baudCur (i : Fin 8) (v : Word) : (s.setX i v).baudCur = s.baudCur := rfl
@[simp] theorem setX_xmCfg (i : Fin 8) (v : Word) : (s.setX i v).xmCfg = s.xmCfg := rfl
@[simp] theorem setX_xmStat (i : Fin 8) (v : Word) : (s.setX i v).xmStat = s.xmStat := rfl
@[simp] theorem setX_xmBase (i : Fin 8) (v : Word) : (s.setX i v).xmBase = s.xmBase := rfl
@[simp] theorem setX_xmTotal (i : Fin 8) (v : Word) : (s.setX i v).xmTotal = s.xmTotal := rfl
@[simp] theorem setX_xmK (i : Fin 8) (v : Word) : (s.setX i v).xmK = s.xmK := rfl
@[simp] theorem setX_xmSent (i : Fin 8) (v : Word) : (s.setX i v).xmSent = s.xmSent := rfl
@[simp] theorem setX_brStat (i : Fin 8) (v : Word) : (s.setX i v).brStat = s.brStat := rfl
@[simp] theorem setX_brTarget (i : Fin 8) (v : Word) : (s.setX i v).brTarget = s.brTarget := rfl
@[simp] theorem setX_valid (i : Fin 8) (v : Word) : (s.setX i v).valid = s.valid := rfl
@[simp] theorem setX_crc16 (i : Fin 8) (v : Word) : (s.setX i v).crc16 = s.crc16 := rfl
@[simp] theorem setX_crc32 (i : Fin 8) (v : Word) : (s.setX i v).crc32 = s.crc32 := rfl
@[simp] theorem setX_md5 (i : Fin 8) (v : Word) : (s.setX i v).md5 = s.md5 := rfl
@[simp] theorem setX_sha (i : Fin 8) (v : Word) : (s.setX i v).sha = s.sha := rfl
@[simp] theorem setX_pbuf (i : Fin 8) (v : Word) : (s.setX i v).pbuf = s.pbuf := rfl
@[simp] theorem setX_rxq (i : Fin 8) (v : Word) : (s.setX i v).rxq = s.rxq := rfl
@[simp] theorem setX_tx (i : Fin 8) (v : Word) : (s.setX i v).tx = s.tx := rfl
@[simp] theorem setX_evt (i : Fin 8) (v : Word) : (s.setX i v).evt = s.evt := rfl
@[simp] theorem setX_opcur (i : Fin 8) (v : Word) : (s.setX i v).opcur = s.opcur := rfl
@[simp] theorem setX_cont (i : Fin 8) (v : Word) : (s.setX i v).cont = s.cont := rfl
@[simp] theorem setX_params (i : Fin 8) (v : Word) : (s.setX i v).params = s.params := rfl
@[simp] theorem setX_turns (i : Fin 8) (v : Word) : (s.setX i v).turns = s.turns := rfl
@[simp] theorem setX_env (i : Fin 8) (v : Word) : (s.setX i v).env = s.env := rfl
@[simp] theorem setX_reply (i : Fin 8) (v : Word) : (s.setX i v).reply = s.reply := rfl

/-! ### `setCancel` -/

@[simp] theorem setCancel_x : (s.setCancel).x = s.x := rfl
@[simp] theorem setCancel_status : (s.setCancel).status = s.status := rfl
@[simp] theorem setCancel_info : (s.setCancel).info = s.info := rfl
@[simp] theorem setCancel_ctrl : (s.setCancel).ctrl = { s.ctrl with cancel := true } := rfl
@[simp] theorem setCancel_baudCur : (s.setCancel).baudCur = s.baudCur := rfl
@[simp] theorem setCancel_xmCfg : (s.setCancel).xmCfg = s.xmCfg := rfl
@[simp] theorem setCancel_xmStat : (s.setCancel).xmStat = s.xmStat := rfl
@[simp] theorem setCancel_xmBase : (s.setCancel).xmBase = s.xmBase := rfl
@[simp] theorem setCancel_xmTotal : (s.setCancel).xmTotal = s.xmTotal := rfl
@[simp] theorem setCancel_xmK : (s.setCancel).xmK = s.xmK := rfl
@[simp] theorem setCancel_xmSent : (s.setCancel).xmSent = s.xmSent := rfl
@[simp] theorem setCancel_brStat : (s.setCancel).brStat = s.brStat := rfl
@[simp] theorem setCancel_brTarget : (s.setCancel).brTarget = s.brTarget := rfl
@[simp] theorem setCancel_valid : (s.setCancel).valid = s.valid := rfl
@[simp] theorem setCancel_crc16 : (s.setCancel).crc16 = s.crc16 := rfl
@[simp] theorem setCancel_crc32 : (s.setCancel).crc32 = s.crc32 := rfl
@[simp] theorem setCancel_md5 : (s.setCancel).md5 = s.md5 := rfl
@[simp] theorem setCancel_sha : (s.setCancel).sha = s.sha := rfl
@[simp] theorem setCancel_pbuf : (s.setCancel).pbuf = s.pbuf := rfl
@[simp] theorem setCancel_rxq : (s.setCancel).rxq = s.rxq := rfl
@[simp] theorem setCancel_tx : (s.setCancel).tx = s.tx := rfl
@[simp] theorem setCancel_evt : (s.setCancel).evt = s.evt := rfl
@[simp] theorem setCancel_opcur : (s.setCancel).opcur = s.opcur := rfl
@[simp] theorem setCancel_cont : (s.setCancel).cont = s.cont := rfl
@[simp] theorem setCancel_params : (s.setCancel).params = s.params := rfl
@[simp] theorem setCancel_turns : (s.setCancel).turns = s.turns := rfl
@[simp] theorem setCancel_env : (s.setCancel).env = s.env := rfl
@[simp] theorem setCancel_reply : (s.setCancel).reply = s.reply := rfl

/-! ### `setStub` -/

@[simp] theorem setStub_x (b : Bool) : (s.setStub b).x = s.x := rfl
@[simp] theorem setStub_status (b : Bool) : (s.setStub b).status = s.status := rfl
@[simp] theorem setStub_info (b : Bool) : (s.setStub b).info = s.info := rfl
@[simp] theorem setStub_ctrl (b : Bool) : (s.setStub b).ctrl = { s.ctrl with stub := b } := rfl
@[simp] theorem setStub_baudCur (b : Bool) : (s.setStub b).baudCur = s.baudCur := rfl
@[simp] theorem setStub_xmCfg (b : Bool) : (s.setStub b).xmCfg = s.xmCfg := rfl
@[simp] theorem setStub_xmStat (b : Bool) : (s.setStub b).xmStat = s.xmStat := rfl
@[simp] theorem setStub_xmBase (b : Bool) : (s.setStub b).xmBase = s.xmBase := rfl
@[simp] theorem setStub_xmTotal (b : Bool) : (s.setStub b).xmTotal = s.xmTotal := rfl
@[simp] theorem setStub_xmK (b : Bool) : (s.setStub b).xmK = s.xmK := rfl
@[simp] theorem setStub_xmSent (b : Bool) : (s.setStub b).xmSent = s.xmSent := rfl
@[simp] theorem setStub_brStat (b : Bool) : (s.setStub b).brStat = s.brStat := rfl
@[simp] theorem setStub_brTarget (b : Bool) : (s.setStub b).brTarget = s.brTarget := rfl
@[simp] theorem setStub_valid (b : Bool) : (s.setStub b).valid = s.valid := rfl
@[simp] theorem setStub_crc16 (b : Bool) : (s.setStub b).crc16 = s.crc16 := rfl
@[simp] theorem setStub_crc32 (b : Bool) : (s.setStub b).crc32 = s.crc32 := rfl
@[simp] theorem setStub_md5 (b : Bool) : (s.setStub b).md5 = s.md5 := rfl
@[simp] theorem setStub_sha (b : Bool) : (s.setStub b).sha = s.sha := rfl
@[simp] theorem setStub_pbuf (b : Bool) : (s.setStub b).pbuf = s.pbuf := rfl
@[simp] theorem setStub_rxq (b : Bool) : (s.setStub b).rxq = s.rxq := rfl
@[simp] theorem setStub_tx (b : Bool) : (s.setStub b).tx = s.tx := rfl
@[simp] theorem setStub_evt (b : Bool) : (s.setStub b).evt = s.evt := rfl
@[simp] theorem setStub_opcur (b : Bool) : (s.setStub b).opcur = s.opcur := rfl
@[simp] theorem setStub_cont (b : Bool) : (s.setStub b).cont = s.cont := rfl
@[simp] theorem setStub_params (b : Bool) : (s.setStub b).params = s.params := rfl
@[simp] theorem setStub_turns (b : Bool) : (s.setStub b).turns = s.turns := rfl
@[simp] theorem setStub_env (b : Bool) : (s.setStub b).env = s.env := rfl
@[simp] theorem setStub_reply (b : Bool) : (s.setStub b).reply = s.reply := rfl

/-! ### `poked` -/

@[simp] theorem poked_x (a : Nat) (bs : List Byte) : (s.poked a bs).x = s.x := rfl
@[simp] theorem poked_status (a : Nat) (bs : List Byte) : (s.poked a bs).status = s.status := rfl
@[simp] theorem poked_info (a : Nat) (bs : List Byte) : (s.poked a bs).info = s.info := rfl
@[simp] theorem poked_ctrl (a : Nat) (bs : List Byte) : (s.poked a bs).ctrl = s.ctrl := rfl
@[simp] theorem poked_baudCur (a : Nat) (bs : List Byte) : (s.poked a bs).baudCur = s.baudCur := rfl
@[simp] theorem poked_xmCfg (a : Nat) (bs : List Byte) : (s.poked a bs).xmCfg = s.xmCfg := rfl
@[simp] theorem poked_xmStat (a : Nat) (bs : List Byte) : (s.poked a bs).xmStat = s.xmStat := rfl
@[simp] theorem poked_xmBase (a : Nat) (bs : List Byte) : (s.poked a bs).xmBase = s.xmBase := rfl
@[simp] theorem poked_xmTotal (a : Nat) (bs : List Byte) : (s.poked a bs).xmTotal = s.xmTotal := rfl
@[simp] theorem poked_xmK (a : Nat) (bs : List Byte) : (s.poked a bs).xmK = s.xmK := rfl
@[simp] theorem poked_xmSent (a : Nat) (bs : List Byte) : (s.poked a bs).xmSent = s.xmSent := rfl
@[simp] theorem poked_brStat (a : Nat) (bs : List Byte) : (s.poked a bs).brStat = s.brStat := rfl
@[simp] theorem poked_brTarget (a : Nat) (bs : List Byte) : (s.poked a bs).brTarget = s.brTarget := rfl
@[simp] theorem poked_valid (a : Nat) (bs : List Byte) : (s.poked a bs).valid = s.valid := rfl
@[simp] theorem poked_crc16 (a : Nat) (bs : List Byte) : (s.poked a bs).crc16 = s.crc16 := rfl
@[simp] theorem poked_crc32 (a : Nat) (bs : List Byte) : (s.poked a bs).crc32 = s.crc32 := rfl
@[simp] theorem poked_md5 (a : Nat) (bs : List Byte) : (s.poked a bs).md5 = s.md5 := rfl
@[simp] theorem poked_sha (a : Nat) (bs : List Byte) : (s.poked a bs).sha = s.sha := rfl
@[simp] theorem poked_pbuf (a : Nat) (bs : List Byte) : (s.poked a bs).pbuf = s.pbuf.storeBytes a bs := rfl
@[simp] theorem poked_rxq (a : Nat) (bs : List Byte) : (s.poked a bs).rxq = s.rxq := rfl
@[simp] theorem poked_tx (a : Nat) (bs : List Byte) : (s.poked a bs).tx = s.tx := rfl
@[simp] theorem poked_evt (a : Nat) (bs : List Byte) : (s.poked a bs).evt = s.evt := rfl
@[simp] theorem poked_opcur (a : Nat) (bs : List Byte) : (s.poked a bs).opcur = s.opcur := rfl
@[simp] theorem poked_cont (a : Nat) (bs : List Byte) : (s.poked a bs).cont = s.cont := rfl
@[simp] theorem poked_params (a : Nat) (bs : List Byte) : (s.poked a bs).params = s.params := rfl
@[simp] theorem poked_turns (a : Nat) (bs : List Byte) : (s.poked a bs).turns = s.turns := rfl
@[simp] theorem poked_env (a : Nat) (bs : List Byte) : (s.poked a bs).env = s.env := rfl
@[simp] theorem poked_reply (a : Nat) (bs : List Byte) : (s.poked a bs).reply = s.reply := rfl

end Sys2Proof.Machine.State
end

