-- ==== Sys2Proof/Laws/Ops.lean ====
section
/-! SUPPORT. What each shared operation can do, said once: an elimination rule per operation, to be cited instead of
unfolding it. -/

namespace Sys2Proof.Machine

variable {P : State → Prop} (s : State)

/-! ### The operand checks -/

theorem State.inContext_elim (go : State → State) (hgo : s.ctrl.opened = true → P (go s))
    (hf : s.ctrl.opened = false → P (s.raise .noContext 0#32)) : P (s.inContext go) := by
  unfold State.inContext
  split
  · exact hgo ‹_›
  · rename_i h
    exact hf (by simpa using h)

theorem State.withInput_elim (go : List Byte → State)
    (hgo : s.x.x0.toNat + s.x.x1.toNat ≤ Config.pbufBytes → P (go (s.pbuf.bytes s.x.x0.toNat s.x.x1.toNat)))
    (hf : Config.pbufBytes < s.x.x0.toNat + s.x.x1.toNat → P (s.raise .bufferRange s.x.x0)) : P (s.withInput go) := by
  unfold State.withInput
  split
  · rename_i h
    exact hgo (by simpa [inRange] using h)
  · rename_i h
    exact hf (by simpa [inRange] using h)

theorem State.withRange_elim (addr : Word) (n : Nat) (go : State → State)
    (hgo : addr.toNat + n ≤ Config.pbufBytes → P (go s))
    (hf : Config.pbufBytes < addr.toNat + n → P (s.raise .bufferRange addr)) : P (s.withRange addr n go) := by
  unfold State.withRange
  split
  · rename_i h
    exact hgo (by simpa [inRange] using h)
  · rename_i h
    exact hf (by simpa [inRange] using h)

theorem State.memWrite_elim (addr : Word) (bs : List Byte) (fail ok : State → State)
    (hok : addr.toNat + bs.length ≤ Config.pbufBytes → P (ok (s.stored addr bs)))
    (hf : Config.pbufBytes < addr.toNat + bs.length → P (fail s)) : P (s.memWrite addr bs fail ok) := by
  unfold State.memWrite
  split
  · rename_i h
    exact hok (by simpa [inRange] using h)
  · rename_i h
    exact hf (by simpa [inRange] using h)

theorem State.suspendUnless_elim (ready : Bool) (c : Cont) (go : State → State) (hgo : ready = true → P (go s))
    (hs : ready = false → P (s.suspend c)) : P (s.suspendUnless ready c go) := by
  unfold State.suspendUnless
  split
  · exact hgo ‹_›
  · rename_i h
    exact hs (by simpa using h)

theorem State.withRate_elim (go : State → State) (hgo : s.x.x2 ≠ 0#32 → P (go s))
    (hf : s.x.x2 = 0#32 → P (s.raise .illegalOperand 2#32)) : P (s.withRate go) := by
  unfold State.withRate
  split
  · exact hf ‹_›
  · exact hgo ‹_›

theorem State.withLength_elim (limit : Nat) (go : State → State) (hgo : s.x.x1.toNat ≤ limit → P (go s))
    (hf : limit < s.x.x1.toNat → P (s.raise .illegalOperand 1#32)) : P (s.withLength limit go) := by
  unfold State.withLength
  split
  · exact hf ‹_›
  · exact hgo (by omega)

theorem State.withV16_elim (go : State → State) (hgo : s.valid.v16 = true → P (go s))
    (hf : s.valid.v16 = false → P (s.raise .notInitialised 1#32)) : P (s.withV16 go) := by
  unfold State.withV16
  split
  · exact hgo ‹_›
  · rename_i h
    exact hf (by simpa using h)

theorem State.withV32_elim (go : State → State) (hgo : s.valid.v32 = true → P (go s))
    (hf : s.valid.v32 = false → P (s.raise .notInitialised 2#32)) : P (s.withV32 go) := by
  unfold State.withV32
  split
  · exact hgo ‹_›
  · rename_i h
    exact hf (by simpa using h)

theorem State.withVmd5_elim (go : State → State) (hgo : s.valid.vmd5 = true → P (go s))
    (hf : s.valid.vmd5 = false → P (s.raise .notInitialised 3#32)) : P (s.withVmd5 go) := by
  unfold State.withVmd5
  split
  · exact hgo ‹_›
  · rename_i h
    exact hf (by simpa using h)

theorem State.withVsha_elim (go : State → State) (hgo : s.valid.vsha = true → P (go s))
    (hf : s.valid.vsha = false → P (s.raise .notInitialised 4#32)) : P (s.withVsha go) := by
  unfold State.withVsha
  split
  · exact hgo ‹_›
  · rename_i h
    exact hf (by simpa using h)

theorem State.withMd5Room_elim (n : Nat) (go : State → State) (hgo : s.md5.len.toNat + n ≤ Config.pbufBytes → P (go s))
    (hf : Config.pbufBytes < s.md5.len.toNat + n → P (s.raise .lengthLimit 3#32)) : P (s.withMd5Room n go) := by
  unfold State.withMd5Room
  split
  · exact hf ‹_›
  · exact hgo (by omega)

theorem State.withShaRoom_elim (n : Nat) (go : State → State) (hgo : s.sha.len.toNat + n ≤ Config.pbufBytes → P (go s))
    (hf : Config.pbufBytes < s.sha.len.toNat + n → P (s.raise .lengthLimit 4#32)) : P (s.withShaRoom n go) := by
  unfold State.withShaRoom
  split
  · exact hf ‹_›
  · exact hgo (by omega)

/-! ### The transport, the checkpoint, the queue -/

theorem State.txPut_elim (bs : List Byte) (fail ok : State → State) (hempty : bs = [] → P (ok s))
    (hfail : bs ≠ [] → s.env.writeFails = true → P (fail s.txFailed))
    (hsent : bs ≠ [] → s.env.writeFails = false → P (ok (s.txSent bs))) : P (s.txPut bs fail ok) := by
  unfold State.txPut
  split
  · exact hempty rfl
  · split
    · exact hfail (by simp) ‹_›
    · rename_i h
      exact hsent (by simp) (by simpa using h)

theorem State.txFinal_elim (bs : List Byte) (hempty : bs = [] → P s.complete)
    (hfail : bs ≠ [] → s.env.writeFails = true → P (s.txFailed.raise .transportWrite 0#32))
    (hsent : bs ≠ [] → s.env.writeFails = false → P (s.txSent bs).complete) : P (s.txFinal bs) :=
  State.txPut_elim s bs _ _ hempty hfail hsent

theorem State.checkpoint_elim (abort go : State → State)
    (habort : s.ctrl.cancel = true → P (abort (s.emit (.log .warning .cancelled))))
    (hgo : s.ctrl.cancel = false → P (go s)) : P (s.checkpoint abort go) := by
  unfold State.checkpoint
  split
  · exact habort ‹_›
  · rename_i h
    exact hgo (by simpa using h)

theorem State.rxByte_elim (wait : State) (go : State → Byte → State) (hwait : s.rxq = [] → P wait)
    (hgo : ∀ b rest, s.rxq = b :: rest → P (go (s.rxDrop 1) b)) : P (s.rxByte wait go) := by
  unfold State.rxByte
  split
  · exact hwait ‹_›
  · exact hgo _ _ ‹_›

theorem State.slipReceive_elim (wait : State) (fail : State → StatusCode → Word → State) (frame : State → List Byte → State)
    (hwait : slipScan s.rxq = .incomplete → P wait)
    (hframe : ∀ f c, slipScan s.rxq = .frame f c → P (frame (s.rxDrop c) f))
    (hfail : ∀ b c, slipScan s.rxq = .error b c →
      P (fail (s.rxDrop c) .protocolFraming (framingInfo 1#16 (b.setWidth 16)))) :
    P (s.slipReceive wait fail frame) := by
  unfold State.slipReceive
  split
  · exact hwait ‹_›
  · exact hframe _ _ ‹_›
  · exact hfail _ _ ‹_›

/-! ### Ending an operation -/

/-- Taking a fault, written out. -/
theorem State.raise_eq (c : StatusCode) (info : Word) : s.raise c info = s.faulted c.code info := rfl

/-- Successful completion, written out. -/
theorem State.complete_eq : s.complete = s.succeeded := rfl

/-- Suspension, written out. -/
theorem State.suspend_eq (c : Cont) : s.suspend c = s.waiting c := rfl

/-- A draw for a write, where the script has one. -/
theorem writeFails_of_cons (b : Bool) (rest : List Bool) (h : s.env.writes = b :: rest) : s.env.writeFails = b := by
  simp [EnvScript.writeFails, h]

end Sys2Proof.Machine
end

