-- ==== Sys2Proof/Laws/Engine.lean ====
section
/-! SUPPORT. The block's own run (spec/10_state.md R25): what it does at one suspension point, and that its bound is
enough. -/

namespace Sys2Proof.Machine

/-- How many suspension points the block can pass before it must wait. -/
def State.fuelNeeded (s : State) : Nat :=
  match s.cont with
  | none => 0
  | some .xmInit | some .xmPacket | some .xmEot => s.rxq.length + 1
  | some (.lpPoll _ _) => s.rxq.length + 4
  | some (.lpPrefix _ _) => s.rxq.length + 3
  | some (.lpLen _) | some (.bkFlush _) => 2
  | some _ => 1

theorem State.fuelNeeded_le (s : State) : s.fuelNeeded ≤ s.rxq.length + 4 := by
  unfold State.fuelNeeded
  split <;> omega

theorem State.fuelNeeded_raise (s : State) (c : StatusCode) (i : Word) : (s.raise c i).fuelNeeded = 0 := rfl

theorem State.fuelNeeded_complete (s : State) : s.complete.fuelNeeded = 0 := rfl

/-- Where the XMODEM sender stops after a response: it has ended, or it waits for a response with the queue as it was. -/
def State.xmStops (q : List Byte) (t : State) : Prop :=
  t.cont = none ∨ (t.rxq = q ∧ (t.cont = some .xmPacket ∨ t.cont = some .xmEot))

theorem xmStops_transmitPacket (s : State) : State.xmStops s.rxq s.xmTransmitPacket := by
  unfold State.xmTransmitPacket
  refine State.checkpoint_elim s _ _ (fun _ => .inl rfl) (fun _ => ?_)
  exact State.txPut_elim _ _ _ _ (fun _ => .inr ⟨rfl, .inl rfl⟩) (fun _ _ => .inl rfl) (fun _ _ => .inr ⟨rfl, .inl rfl⟩)

theorem xmStops_transmitEot (s : State) : State.xmStops s.rxq s.xmTransmitEot := by
  unfold State.xmTransmitEot
  refine State.checkpoint_elim s _ _ (fun _ => .inl rfl) (fun _ => ?_)
  exact State.txPut_elim _ _ _ _ (fun _ => .inr ⟨rfl, .inr rfl⟩) (fun _ _ => .inl rfl) (fun _ _ => .inr ⟨rfl, .inr rfl⟩)

theorem xmStops_next (s : State) : State.xmStops s.rxq s.xmNext := by
  unfold State.xmNext
  split
  · exact xmStops_transmitPacket (s.xmSetRetry 0#8)
  · exact xmStops_transmitEot ((s.xmSetState .eot).xmSetRetry 0#8)

theorem xmStops_initByte (s : State) (b : Byte) : State.xmStops s.rxq (s.xmInitByte b) := by
  unfold State.xmInitByte
  split
  · exact xmStops_next ((s.xmSetMode true).xmSetState .send)
  · split
    · exact xmStops_next ((s.xmSetMode false).xmSetState .send)
    · exact .inl rfl

theorem xmStops_packetByte (s : State) (b : Byte) : State.xmStops s.rxq (s.xmPacketByte b) := by
  unfold State.xmPacketByte
  split
  · exact xmStops_next s.xmAdvance.xmProgress
  · split
    · exact .inl rfl
    · unfold State.xmRetry
      split
      · exact .inl rfl
      · exact xmStops_transmitPacket _

theorem xmStops_eotResponse (s : State) (b : Byte) : State.xmStops s.rxq (s.xmEotResponse b) := by
  unfold State.xmEotResponse
  split
  · exact .inl rfl
  · split
    · exact .inl rfl
    · unfold State.xmRetry
      split
      · exact .inl rfl
      · exact xmStops_transmitEot _

theorem fuelNeeded_of_xmStops (q : List Byte) (t : State) (h : State.xmStops q t) : t.fuelNeeded ≤ q.length + 1 := by
  rcases h with h | ⟨hq, h | h⟩ <;> simp [State.fuelNeeded, *]

/-- Passing one suspension point uses up some of the bound. -/
theorem State.fuelNeeded_goOn (s : State) (h : s.canGo = true) : s.goOn.fuelNeeded < s.fuelNeeded := by
  unfold State.canGo at h
  cases hc : s.cont with
  | none => simp [hc] at h
  | some c =>
    simp only [hc] at h
    have hr := h
    have xm : ∀ (w : State) (go : State → Byte → State), c = .xmInit ∨ c = .xmPacket ∨ c = .xmEot →
        (∀ t b, State.xmStops t.rxq (go t b)) → (s.uncont.rxByte w go).fuelNeeded < s.fuelNeeded := by
      intro w go hcc hgo
      have hne : s.rxq ≠ [] := by
        rcases hcc with rfl | rfl | rfl <;> simpa [State.contReady] using hr
      refine State.rxByte_elim (P := fun t => t.fuelNeeded < s.fuelNeeded) s.uncont w go
        (fun he => absurd he hne) (fun b rest hb => ?_)
      have h1 := fuelNeeded_of_xmStops _ _ (hgo (s.uncont.rxDrop 1) b)
      have h2 : s.fuelNeeded = s.rxq.length + 1 := by
        rcases hcc with rfl | rfl | rfl <;> simp [State.fuelNeeded, hc]
      have h3 : s.rxq = b :: rest := hb
      simp [h3] at h1 h2
      omega
    cases c with
    | xmInit =>
      simp only [State.goOn, hc, State.resume]
      exact xm _ _ (.inl rfl) xmStops_initByte
    | xmPacket =>
      simp only [State.goOn, hc, State.resume]
      exact xm _ _ (.inr (.inl rfl)) xmStops_packetByte
    | xmEot =>
      simp only [State.goOn, hc, State.resume]
      exact xm _ _ (.inr (.inr rfl)) xmStops_eotResponse
    | rxRaw =>
      have : s.fuelNeeded = 1 := by simp [State.fuelNeeded, hc]
      rw [this]
      simp only [State.goOn, hc, State.resume, State.rxRawReady]
      exact State.memWrite_elim (P := fun t => t.fuelNeeded < 1) _ _ _ _ _ (fun _ => Nat.one_pos) (fun _ => Nat.one_pos)
    | bkFlush cmd =>
      have : s.fuelNeeded = 2 := by simp [State.fuelNeeded, hc]
      rw [this]
      simp only [State.goOn, hc, State.resume, State.bkFlushed]
      refine State.suspendUnless_elim (P := fun t => t.fuelNeeded < 2) _ _ _ _ (fun _ => ?_) (fun _ => by
        simp [State.fuelNeeded])
      exact State.memWrite_elim (P := fun t => t.fuelNeeded < 2) _ _ _ _ _ (fun _ => Nat.two_pos) (fun _ => Nat.two_pos)
    | bkResp cmd =>
      have : s.fuelNeeded = 1 := by simp [State.fuelNeeded, hc]
      rw [this]
      simp only [State.goOn, hc, State.resume, State.bkRespReady]
      exact State.memWrite_elim (P := fun t => t.fuelNeeded < 1) _ _ _ _ _ (fun _ => Nat.one_pos) (fun _ => Nat.one_pos)
    | espResp =>
      have : s.fuelNeeded = 1 := by simp [State.fuelNeeded, hc]
      rw [this]
      simp only [State.goOn, hc, State.resume, State.espReady]
      refine State.slipReceive_elim (P := fun t => t.fuelNeeded < 1) _ _ _ _ (fun hi => ?_) (fun f n _ => ?_)
        (fun _ _ _ => Nat.one_pos)
      · exact absurd hi (by simpa [State.contReady] using hr)
      · unfold State.espFrame
        split
        · exact Nat.one_pos
        · exact State.memWrite_elim (P := fun t => t.fuelNeeded < 1) _ _ _ _ _ (fun _ => Nat.one_pos)
            (fun _ => Nat.one_pos)
    | wmSwitch =>
      have : s.fuelNeeded = 1 := by simp [State.fuelNeeded, hc]
      rw [this]
      simp only [State.goOn, hc, State.resume]
      exact Nat.one_pos
    | lpPrefix d polls =>
      have h2 : 2 ≤ s.rxq.length := by simpa [State.contReady] using hr
      have h3 : s.fuelNeeded = s.rxq.length + 3 := by simp [State.fuelNeeded, hc]
      rw [h3]
      simp only [State.goOn, hc, State.resume, State.lpPrefixReady, State.lpPrefixBytes]
      split
      · split
        · simp [State.fuelNeeded]
        · exact Nat.succ_pos _
      · split
        · exact Nat.succ_pos _
        · split
          · split
            · exact Nat.succ_pos _
            · simp [State.fuelNeeded]
              omega
          · exact Nat.succ_pos _
    | lpPoll d polls =>
      simp [State.goOn, hc, State.resume, State.fuelNeeded]
    | lpLen polls =>
      have h3 : s.fuelNeeded = 2 := by simp [State.fuelNeeded, hc]
      rw [h3]
      simp only [State.goOn, hc, State.resume, State.lpLenReady]
      refine State.withRange_elim (P := fun t => t.fuelNeeded < 2) _ _ _ _ (fun _ => ?_) (fun _ => Nat.two_pos)
      refine State.suspendUnless_elim (P := fun t => t.fuelNeeded < 2) _ _ _ _ (fun _ => ?_) (fun _ => by
        simp [State.fuelNeeded])
      exact State.memWrite_elim (P := fun t => t.fuelNeeded < 2) _ _ _ _ _ (fun _ => Nat.two_pos) (fun _ => Nat.two_pos)
    | lpData polls n =>
      have : s.fuelNeeded = 1 := by simp [State.fuelNeeded, hc]
      rw [this]
      simp only [State.goOn, hc, State.resume, State.lpDataReady]
      exact State.memWrite_elim (P := fun t => t.fuelNeeded < 1) _ _ _ _ _ (fun _ => Nat.one_pos) (fun _ => Nat.one_pos)
    | slDec =>
      have : s.fuelNeeded = 1 := by simp [State.fuelNeeded, hc]
      rw [this]
      simp only [State.goOn, hc, State.resume, State.slDecReady]
      refine State.slipReceive_elim (P := fun t => t.fuelNeeded < 1) _ _ _ _ (fun hi => ?_) (fun f n _ => ?_)
        (fun _ _ _ => Nat.one_pos)
      · exact absurd hi (by simpa [State.contReady] using hr)
      · exact State.memWrite_elim (P := fun t => t.fuelNeeded < 1) _ _ _ _ _ (fun _ => Nat.one_pos)
          (fun _ => Nat.one_pos)

theorem State.canGo_false_of_fuelNeeded (s : State) (h : s.fuelNeeded = 0) : s.canGo = false := by
  unfold State.fuelNeeded at h
  unfold State.canGo
  split at h <;> simp_all

/-- Any bound that is enough gives the same run. -/
theorem State.runOn_enough (n : Nat) : ∀ (m : Nat) (s : State), s.fuelNeeded ≤ n → s.fuelNeeded ≤ m →
    State.runOn n s = State.runOn m s := by
  induction n with
  | zero =>
    intro m s hn _
    have := s.canGo_false_of_fuelNeeded (by omega)
    cases m <;> simp [State.runOn, this]
  | succ n ih =>
    intro m s hn hm
    cases hg : s.canGo with
    | false => cases m <;> simp [State.runOn, hg]
    | true =>
      have hlt := s.fuelNeeded_goOn hg
      cases m with
      | zero => omega
      | succ m =>
        simp only [State.runOn, hg, if_true]
        exact ih m s.goOn (by omega) (by omega)

/-! ### The schedule during the block's own run -/

section Turns

variable (ts : List Turn) (s : State)

theorem State.turns_xmTransmitPacket (h : s.turns = ts) : s.xmTransmitPacket.turns = ts := by
  unfold State.xmTransmitPacket
  refine State.checkpoint_elim (P := fun t => t.turns = ts) s _ _ (fun _ => h) (fun _ => ?_)
  exact State.txPut_elim (P := fun t => t.turns = ts) _ _ _ _ (fun _ => h) (fun _ _ => h) (fun _ _ => h)

theorem State.turns_xmTransmitEot (h : s.turns = ts) : s.xmTransmitEot.turns = ts := by
  unfold State.xmTransmitEot
  refine State.checkpoint_elim (P := fun t => t.turns = ts) s _ _ (fun _ => h) (fun _ => ?_)
  exact State.txPut_elim (P := fun t => t.turns = ts) _ _ _ _ (fun _ => h) (fun _ _ => h) (fun _ _ => h)

theorem State.turns_xmNext (h : s.turns = ts) : s.xmNext.turns = ts := by
  unfold State.xmNext
  split
  · exact State.turns_xmTransmitPacket ts _ h
  · exact State.turns_xmTransmitEot ts _ h

theorem State.turns_xmRetry (again : State → State) (h : s.turns = ts)
    (ha : ∀ t : State, t.turns = ts → (again t).turns = ts) : (s.xmRetry again).turns = ts := by
  unfold State.xmRetry
  split
  · exact h
  · exact ha _ h

/-- The block's own run leaves the schedule alone. -/
@[simp] theorem State.turns_goOn : s.goOn.turns = s.turns := by
  unfold State.goOn
  split
  · rfl
  · rename_i c _
    have h : s.uncont.turns = s.turns := rfl
    revert h
    generalize s.uncont = u, s.turns = ts
    intro h
    cases c with
    | xmInit =>
      refine State.rxByte_elim (P := fun t => t.turns = ts) u _ _ (fun _ => h) (fun b _ _ => ?_)
      unfold State.xmInitByte
      split
      · exact State.turns_xmNext ts _ h
      · split
        · exact State.turns_xmNext ts _ h
        · exact h
    | xmPacket =>
      refine State.rxByte_elim (P := fun t => t.turns = ts) u _ _ (fun _ => h) (fun b _ _ => ?_)
      unfold State.xmPacketByte
      split
      · exact State.turns_xmNext ts _ h
      · split
        · exact h
        · exact State.turns_xmRetry ts _ _ h (State.turns_xmTransmitPacket ts)
    | xmEot =>
      refine State.rxByte_elim (P := fun t => t.turns = ts) u _ _ (fun _ => h) (fun b _ _ => ?_)
      unfold State.xmEotResponse
      split
      · exact h
      · split
        · exact h
        · exact State.turns_xmRetry ts _ _ h (State.turns_xmTransmitEot ts)
    | rxRaw => exact State.memWrite_elim (P := fun t => t.turns = ts) _ _ _ _ _ (fun _ => h) (fun _ => h)
    | bkFlush cmd =>
      refine State.suspendUnless_elim (P := fun t => t.turns = ts) _ _ _ _ (fun _ => ?_) (fun _ => h)
      exact State.memWrite_elim (P := fun t => t.turns = ts) _ _ _ _ _ (fun _ => h) (fun _ => h)
    | bkResp cmd => exact State.memWrite_elim (P := fun t => t.turns = ts) _ _ _ _ _ (fun _ => h) (fun _ => h)
    | espResp =>
      refine State.slipReceive_elim (P := fun t => t.turns = ts) _ _ _ _ (fun _ => h) (fun f n _ => ?_) (fun _ _ _ => h)
      unfold State.espFrame
      split
      · exact h
      · exact State.memWrite_elim (P := fun t => t.turns = ts) _ _ _ _ _ (fun _ => h) (fun _ => h)
    | wmSwitch => exact h
    | lpPrefix d polls =>
      simp only [State.resume, State.lpPrefixReady, State.lpPrefixBytes]
      split
      · split
        · exact h
        · exact h
      · split
        · exact h
        · split
          · split
            · exact h
            · exact h
          · exact h
    | lpPoll d polls => exact h
    | lpLen polls =>
      refine State.withRange_elim (P := fun t => t.turns = ts) _ _ _ _ (fun _ => ?_) (fun _ => h)
      refine State.suspendUnless_elim (P := fun t => t.turns = ts) _ _ _ _ (fun _ => ?_) (fun _ => h)
      exact State.memWrite_elim (P := fun t => t.turns = ts) _ _ _ _ _ (fun _ => h) (fun _ => h)
    | lpData polls n => exact State.memWrite_elim (P := fun t => t.turns = ts) _ _ _ _ _ (fun _ => h) (fun _ => h)
    | slDec =>
      refine State.slipReceive_elim (P := fun t => t.turns = ts) _ _ _ _ (fun _ => h) (fun f n _ => ?_) (fun _ _ _ => h)
      exact State.memWrite_elim (P := fun t => t.turns = ts) _ _ _ _ _ (fun _ => h) (fun _ => h)

end Turns

/-! ### The block's own run -/

/-- What every passed suspension point keeps, a run of any length keeps. -/
theorem State.runOn_induct {P : State → Prop} (hstep : ∀ t, t.canGo = true → P t → P t.goOn) (n : Nat) :
    ∀ s : State, P s → P (State.runOn n s) := by
  induction n with
  | zero => exact fun _ h => h
  | succ n ih =>
    intro s h
    simp only [State.runOn]
    split
    · exact ih _ (hstep s ‹_› h)
    · exact h

/-- What every passed suspension point keeps, the block's own run keeps. -/
theorem State.settle_induct {P : State → Prop} (hstep : ∀ t, t.canGo = true → P t → P t.goOn) (s : State) (h : P s) :
    P s.settle := by
  unfold State.settle
  split <;> exact State.runOn_induct hstep _ s h

@[simp] theorem State.turns_settle (s : State) : s.settle.turns = s.turns :=
  State.settle_induct (P := fun t => t.turns = s.turns) (fun t _ h => t.turns_goOn.trans h) s rfl

/-- Without a `hold` next, the run passes every point whose condition holds. -/
theorem State.settle_of_unheld (s : State) (h : holdOf s.turns = none) :
    s.settle = State.runOn (s.rxq.length + 4) s := by
  unfold State.settle
  rw [h]

/-- With a `hold` next, the run is as long as it says. -/
theorem State.settle_of_held (s : State) (n : Nat) (h : holdOf s.turns = some n) : s.settle = State.runOn n s := by
  unfold State.settle
  rw [h]

theorem State.runOn_of_canGo_false (n : Nat) (s : State) (h : s.canGo = false) : State.runOn n s = s := by
  cases n <;> simp [State.runOn, h]

/-- The block stays where it is when it cannot go on. -/
theorem State.settle_of_canGo_false (s : State) (h : s.canGo = false) : s.settle = s := by
  unfold State.settle
  split <;> exact State.runOn_of_canGo_false _ s h

/-- The block passes one suspension point and goes on from there. -/
theorem State.settle_of_canGo (s : State) (hu : holdOf s.turns = none) (h : s.canGo = true) :
    s.settle = s.goOn.settle := by
  have hlt := s.fuelNeeded_goOn h
  have hle := s.fuelNeeded_le
  have e : s.settle = State.runOn (s.rxq.length + 3) s.goOn := by
    simp [State.settle_of_unheld s hu, State.runOn, h]
  rw [e, State.settle_of_unheld s.goOn (by rw [State.turns_goOn]; exact hu)]
  exact State.runOn_enough _ _ _ (by omega) s.goOn.fuelNeeded_le

/-- An idle block stays as it is. -/
theorem State.settle_of_idle (s : State) (h : s.cont = none) : s.settle = s :=
  s.settle_of_canGo_false (by simp [State.canGo, h])

@[simp] theorem State.settle_raise (s : State) (c : StatusCode) (i : Word) : (s.raise c i).settle = s.raise c i :=
  State.settle_of_idle _ rfl

@[simp] theorem State.settle_complete (s : State) : s.complete.settle = s.complete := State.settle_of_idle _ rfl

/-- After its own run the block can go no further, unless the schedule made it rest. -/
theorem State.settle_settled (s : State) (hu : holdOf s.turns = none) : s.settle.canGo = false := by
  rw [State.settle_of_unheld s hu]
  have : ∀ n (t : State), t.fuelNeeded ≤ n → (State.runOn n t).canGo = false := by
    intro n
    induction n with
    | zero => intro t ht; exact t.canGo_false_of_fuelNeeded (by omega)
    | succ n ih =>
      intro t ht
      simp only [State.runOn]
      split
      · exact ih _ (by have := t.fuelNeeded_goOn ‹_›; omega)
      · rename_i h
        simpa using h
  exact this _ _ s.fuelNeeded_le

/-! ### One wait: it is passed, it stays, or it times out -/

@[simp] theorem State.contReady_suspend (s : State) (c k : Cont) : (s.suspend k).contReady c = s.contReady c := by
  cases c <;> rfl

@[simp] theorem State.contReady_uncont (s : State) (c : Cont) : s.uncont.contReady c = s.contReady c := by
  cases c <;> rfl

/-- Going on from a suspension point whose condition holds. -/
theorem State.canGo_of_contReady (s : State) (c : Cont) (hc : s.cont = some c) (h : s.contReady c = true) :
    s.canGo = true := by
  unfold State.canGo
  rw [hc]
  exact h

theorem State.goOn_of_cont (s : State) (c : Cont) (hc : s.cont = some c) : s.goOn = s.uncont.resume c := by
  unfold State.goOn
  rw [hc]

/-- The block goes past a wait whose condition holds, where the schedule does not make it rest there. -/
theorem State.settle_of_contReady (s : State) (c : Cont) (hc : s.cont = some c) (hu : holdOf s.turns = none)
    (h : s.contReady c = true) : s.settle = (s.uncont.resume c).settle := by
  rw [State.settle_of_canGo s hu (s.canGo_of_contReady c hc h), s.goOn_of_cont c hc]

/-- A run of `n + 1` points goes past a wait whose condition holds. -/
theorem State.runOn_of_contReady (n : Nat) (s : State) (c : Cont) (hc : s.cont = some c) (h : s.contReady c = true) :
    State.runOn (n + 1) s = State.runOn n (s.uncont.resume c) := by
  rw [State.runOn, if_pos (s.canGo_of_contReady c hc h), s.goOn_of_cont c hc]

/-- The block stays at a wait whose condition does not hold. -/
theorem State.settle_of_not_contReady (s : State) (c : Cont) (hc : s.cont = some c) (h : s.contReady c = false) :
    s.settle = s := by
  apply State.settle_of_canGo_false
  unfold State.canGo
  rw [hc]
  exact h

/-- `Timeout` ends a pending wait whose condition does not hold. -/
theorem State.timeoutRaised_of_not_contReady (s : State) (c : Cont) (hc : s.cont = some c)
    (h : s.contReady c = false) : s.timeoutRaised = s.uncont.expire c := by
  unfold State.timeoutRaised
  rw [hc]
  simp [h]

end Sys2Proof.Machine
end

