-- ==== Sys2Proof/Laws/PerInstr.lean ====
section
/-! SUPPORT. Statements about every instruction, one lemma for each constructor. -/

namespace Sys2Proof.Laws.EncodingMatchesRow

/-- The word of `i` has the opcode of its row in the high byte and its immediate in the low byte (R80), and where `i` is
well-formed it matches its row's mask and pattern (R81, R84). -/
def Statement (i : Instr) : Prop :=
  opcOf (encode i) = i.opc ∧ immOf (encode i) = i.low ∧
    (i.wellFormed = true → encode i &&& i.format.mask = i.opc ++ 0#8)

theorem bit_append (o l : Byte) (k : Nat) :
    BitVec.getLsbD (w := 16) (o ++ l) k = if k < 8 then l.getLsbD k else o.getLsbD (k - 8) :=
  BitVec.getLsbD_append

theorem opc_append (o l : Byte) : opcOf (o ++ l) = o := by
  apply BitVec.eq_of_getLsbD_eq
  intro k hk
  simp only [opcOf, BitVec.getLsbD_extractLsb', bit_append]
  simp [hk]

theorem imm_append (o l : Byte) : immOf (o ++ l) = l := by
  apply BitVec.eq_of_getLsbD_eq
  intro k hk
  simp only [immOf, BitVec.getLsbD_extractLsb', bit_append]
  simp [hk]

theorem mask_append (o l h m : Byte) :
    (show Half from o ++ l) &&& (show Half from h ++ m) = ((o &&& h) ++ (l &&& m) : BitVec (8 + 8)) := by
  apply BitVec.eq_of_getLsbD_eq
  intro k hk
  rw [BitVec.getLsbD_and]
  simp only [bit_append]
  split <;> simp

theorem mask_i (o l : Byte) : (o ++ l) &&& 0xFF00#16 = o ++ 0#8 := by
  have h := mask_append o l 0xFF#8 0x00#8
  rw [show o &&& 0xFF#8 = o from BitVec.and_allOnes, BitVec.and_zero] at h
  exact h

theorem mask_f (o l : Byte) (h0 : l &&& 0xFE#8 = 0#8) : (o ++ l) &&& 0xFFFE#16 = o ++ 0#8 := by
  have h := mask_append o l 0xFF#8 0xFE#8
  rw [show o &&& 0xFF#8 = o from BitVec.and_allOnes, h0] at h
  exact h

theorem ctxOpen : Statement .ctxOpen := ⟨rfl, rfl, fun _ => rfl⟩

theorem ctxClose : Statement .ctxClose := ⟨rfl, rfl, fun _ => rfl⟩

theorem rxDrain : Statement .rxDrain := ⟨rfl, rfl, fun _ => rfl⟩

theorem txRaw : Statement .txRaw := ⟨rfl, rfl, fun _ => rfl⟩

theorem rxRaw : Statement .rxRaw := ⟨rfl, rfl, fun _ => rfl⟩

theorem c16Initf : Statement .c16Initf := ⟨rfl, rfl, fun _ => rfl⟩

theorem c16Initx : Statement .c16Initx := ⟨rfl, rfl, fun _ => rfl⟩

theorem c16Updb (imm : Byte) : Statement (.c16Updb imm) := ⟨opc_append _ _, imm_append _ _, fun _ => mask_i _ _⟩

theorem c16Updm : Statement .c16Updm := ⟨rfl, rfl, fun _ => rfl⟩

theorem c16Rd : Statement .c16Rd := ⟨rfl, rfl, fun _ => rfl⟩

theorem c16Calcf : Statement .c16Calcf := ⟨rfl, rfl, fun _ => rfl⟩

theorem c16Calcx : Statement .c16Calcx := ⟨rfl, rfl, fun _ => rfl⟩

theorem c32Init : Statement .c32Init := ⟨rfl, rfl, fun _ => rfl⟩

theorem c32Updb (imm : Byte) : Statement (.c32Updb imm) := ⟨opc_append _ _, imm_append _ _, fun _ => mask_i _ _⟩

theorem c32Updm : Statement .c32Updm := ⟨rfl, rfl, fun _ => rfl⟩

theorem c32Rd : Statement .c32Rd := ⟨rfl, rfl, fun _ => rfl⟩

theorem c32Calc : Statement .c32Calc := ⟨rfl, rfl, fun _ => rfl⟩

theorem md5Init : Statement .md5Init := ⟨rfl, rfl, fun _ => rfl⟩

theorem md5Updb (imm : Byte) : Statement (.md5Updb imm) := ⟨opc_append _ _, imm_append _ _, fun _ => mask_i _ _⟩

theorem md5Updm : Statement .md5Updm := ⟨rfl, rfl, fun _ => rfl⟩

theorem md5Fin : Statement .md5Fin := ⟨rfl, rfl, fun _ => rfl⟩

theorem md5Calc : Statement .md5Calc := ⟨rfl, rfl, fun _ => rfl⟩

theorem shaInit : Statement .shaInit := ⟨rfl, rfl, fun _ => rfl⟩

theorem shaUpdb (imm : Byte) : Statement (.shaUpdb imm) := ⟨opc_append _ _, imm_append _ _, fun _ => mask_i _ _⟩

theorem shaUpdm : Statement .shaUpdm := ⟨rfl, rfl, fun _ => rfl⟩

theorem shaFin : Statement .shaFin := ⟨rfl, rfl, fun _ => rfl⟩

theorem shaCalc : Statement .shaCalc := ⟨rfl, rfl, fun _ => rfl⟩

theorem xmPad (imm : Byte) : Statement (.xmPad imm) := ⟨opc_append _ _, imm_append _ _, fun _ => mask_i _ _⟩

theorem xmMaxr (imm : Byte) : Statement (.xmMaxr imm) := ⟨opc_append _ _, imm_append _ _, fun _ => mask_i _ _⟩

theorem xmSend : Statement .xmSend := ⟨rfl, rfl, fun _ => rfl⟩

theorem brSet : Statement .brSet := ⟨rfl, rfl, fun _ => rfl⟩

theorem brNegBk : Statement .brNegBk := ⟨rfl, rfl, fun _ => rfl⟩

theorem brNegEsp : Statement .brNegEsp := ⟨rfl, rfl, fun _ => rfl⟩

theorem brNegWm : Statement .brNegWm := ⟨rfl, rfl, fun _ => rfl⟩

theorem lpEnc (imm : Byte) : Statement (.lpEnc imm) := ⟨opc_append _ _, imm_append _ _, fun _ => mask_i _ _⟩

theorem lpDec (imm : Byte) : Statement (.lpDec imm) :=
  ⟨opc_append _ _, imm_append _ _, fun h => mask_f _ imm (by simpa [Instr.wellFormed, flagByteOk] using h)⟩

theorem slEnc : Statement .slEnc := ⟨rfl, rfl, fun _ => rfl⟩

theorem slDec : Statement .slDec := ⟨rfl, rfl, fun _ => rfl⟩

theorem slCmd (imm : Byte) : Statement (.slCmd imm) := ⟨opc_append _ _, imm_append _ _, fun _ => mask_i _ _⟩

theorem slRsp (imm : Byte) : Statement (.slRsp imm) := ⟨opc_append _ _, imm_append _ _, fun _ => mask_i _ _⟩

theorem slXsum : Statement .slXsum := ⟨rfl, rfl, fun _ => rfl⟩

theorem w21Enc : Statement .w21Enc := ⟨rfl, rfl, fun _ => rfl⟩

theorem w21Chk : Statement .w21Chk := ⟨rfl, rfl, fun _ => rfl⟩

end Sys2Proof.Laws.EncodingMatchesRow
end

