-- ==== Sys2Proof/Laws/Step.lean ====
section
/-! SUPPORT. What one step does at a suspension point, turn by turn: the block goes on, or stays, or times out. -/

namespace Sys2Proof.Machine

/-- The peer's byte is a turn after which the block goes on. -/
theorem State.agentMoved_of_peer (s : State) (b : Byte) (rest : List Turn) (ht : s.turns = .peer b :: rest)
    (hh : holdOf rest = none) : s.agentMoved { s with turns := rest, rxq := s.rxq ++ [b] } :=
  .inr ⟨rest, hh, .inl ⟨b, ht, rfl⟩⟩

/-- A turn of another agent and then the block's own run, where what the block awaits is there once the turn is taken. -/
theorem State.step_of_agentMoved (s u : State) (c : Cont) (hc : s.cont = some c) (hu : s.agentMoved u)
    (hr : u.contReady c = true) : step s = .next (u.uncont.resume c).settle := by
  have hcu : u.cont = some c ∧ holdOf u.turns = none ∧ step s = .next u.settle := by
    rcases hu with ⟨ht, rfl⟩ | ⟨rest, hh, ⟨b, ht, rfl⟩ | ⟨ht, rfl⟩ | ⟨ht, rfl⟩ | ⟨r, ht, rfl⟩⟩
    · exact ⟨hc, by rw [ht]; rfl, by unfold step State.turn; rw [ht]⟩
    · exact ⟨hc, hh, by unfold step State.turn; rw [ht]; rfl⟩
    · refine ⟨hc, hh, ?_⟩
      have he : (s.setTurns rest).timeoutRaised = { s with turns := rest } := by
        unfold State.timeoutRaised
        rw [show (s.setTurns rest).cont = some c from hc]
        exact if_pos hr
      unfold step State.turn
      rw [ht]
      exact congrArg (fun t => Host.Outcome.next (State.settle t)) he
    · exact ⟨hc, hh, by unfold step State.turn; rw [ht]; rfl⟩
    · exact ⟨hc, hh, by unfold step State.turn; rw [ht]; rfl⟩
  rw [hcu.2.2, u.settle_of_contReady c hcu.1 hcu.2.1 hr]

/-- With no turn left the block stays at a wait whose condition does not hold (R351). -/
theorem State.step_of_not_contReady (s : State) (c : Cont) (hc : s.cont = some c) (ht : s.turns = [])
    (hr : s.contReady c = false) : step s = .next s := by
  unfold step State.turn
  rw [ht]
  exact congrArg _ (s.settle_of_not_contReady c hc hr)

/-- A byte of the peer that does not complete what the block awaits only grows `RXQ` (R63). -/
theorem State.step_of_peer_not_contReady (s : State) (c : Cont) (b : Byte) (rest : List Turn) (hc : s.cont = some c)
    (ht : s.turns = .peer b :: rest) (hr : State.contReady { s with rxq := s.rxq ++ [b] } c = false) :
    step s = .next { s with turns := rest, rxq := s.rxq ++ [b] } := by
  have he : ((s.setTurns rest).rxPut b).settle = (s.setTurns rest).rxPut b :=
    State.settle_of_not_contReady _ c hc (by rw [← hr]; cases c <;> rfl)
  unfold step State.turn
  rw [ht]
  exact congrArg Host.Outcome.next he

/-- A `Timeout` turn at a wait whose condition holds, or in a `Delay`, only leaves the schedule (R338). -/
theorem State.step_of_timeout_contReady (s : State) (c : Cont) (rest : List Turn) (hc : s.cont = some c)
    (ht : s.turns = .timeout :: rest) (hr : s.contReady c = true) :
    step s = .next (State.settle { s with turns := rest }) := by
  have he : (s.setTurns rest).timeoutRaised = { s with turns := rest } := by
    unfold State.timeoutRaised
    rw [show (s.setTurns rest).cont = some c from hc]
    exact if_pos (by rw [← hr]; cases c <;> rfl)
  unfold step State.turn
  rw [ht]
  exact congrArg (fun t => Host.Outcome.next (State.settle t)) he

/-- A `Timeout` turn at a wait whose condition does not hold ends it (R338). -/
theorem State.step_of_timeout_not_contReady (s : State) (c : Cont) (rest : List Turn) (hc : s.cont = some c)
    (ht : s.turns = .timeout :: rest) (hr : s.contReady c = false) :
    step s = .next (State.settle ((s.setTurns rest).uncont.expire c)) := by
  unfold step State.turn
  rw [ht]
  exact congrArg (fun t => Host.Outcome.next (State.settle t))
    (State.timeoutRaised_of_not_contReady (s.setTurns rest) c hc (by rw [← hr]; cases c <;> rfl))

end Sys2Proof.Machine
end

