-- ==== Sys2Proof/Tests/Slice0.lean ====
section
/-! SUPPORT. The model's own tests: one step each on small states, expected values from the worked examples of spec/ (the
rule is named), and for each statement that has hypotheses a witness that they can be met. -/

namespace Sys2Proof.Tests

open Sys2Proof.Machine

/-! ### Well-formedness and decoding -/

/-- The one check of `wellFormed` (R81): bits 7:1 of a format F immediate. -/
theorem test_wellFormed_flag_bits :
    (Instr.lpDec 0x02#8).wellFormed = false ∧ (Instr.lpDec 0x81#8).wellFormed = false ∧
    (Instr.lpDec 0x00#8).wellFormed = true ∧ (Instr.lpDec 0x01#8).wellFormed = true := by decide

/-- The words of R84's rows, format by format as R81 lays them out. -/
theorem test_decode_context : ∀ p ∈ ([(0b00000001_00000000#16, .ctxOpen),
   (0b00000010_00000000#16, .ctxClose),
   (0b00000011_00000000#16, .rxDrain),
   (0b00000100_00000000#16, .txRaw),
   (0b00000101_00000000#16, .rxRaw)] : List (Half × Instr)),
    decode p.1 = .ok p.2 ∧ encode p.2 = p.1 := by decide

/-- The words of R84's rows, format by format as R81 lays them out. -/
theorem test_decode_crc : ∀ p ∈ ([(0b00010000_00000000#16, .c16Initf),
   (0b00010001_00000000#16, .c16Initx),
   (0b00010010_00110001#16, .c16Updb 0x31#8),
   (0b00010011_00000000#16, .c16Updm),
   (0b00010100_00000000#16, .c16Rd),
   (0b00010101_00000000#16, .c16Calcf),
   (0b00010110_00000000#16, .c16Calcx),
   (0b00100000_00000000#16, .c32Init),
   (0b00100010_00110010#16, .c32Updb 0x32#8),
   (0b00100011_00000000#16, .c32Updm),
   (0b00100100_00000000#16, .c32Rd),
   (0b00100101_00000000#16, .c32Calc)] : List (Half × Instr)),
    decode p.1 = .ok p.2 ∧ encode p.2 = p.1 := by decide

/-- The words of R84's rows, format by format as R81 lays them out. -/
theorem test_decode_hash : ∀ p ∈ ([(0b00110000_00000000#16, .md5Init),
   (0b00110010_01100001#16, .md5Updb 0x61#8),
   (0b00110011_00000000#16, .md5Updm),
   (0b00110100_00000000#16, .md5Fin),
   (0b00110101_00000000#16, .md5Calc),
   (0b01000000_00000000#16, .shaInit),
   (0b01000010_11111111#16, .shaUpdb 0xFF#8),
   (0b01000011_00000000#16, .shaUpdm),
   (0b01000100_00000000#16, .shaFin),
   (0b01000101_00000000#16, .shaCalc)] : List (Half × Instr)),
    decode p.1 = .ok p.2 ∧ encode p.2 = p.1 := by decide

/-- The words of R84's rows, format by format as R81 lays them out. -/
theorem test_decode_xmodem_baud : ∀ p ∈ ([(0b01010000_00011010#16, .xmPad 0x1A#8),
   (0b01010001_00001010#16, .xmMaxr 0x0A#8),
   (0b01010010_00000000#16, .xmSend),
   (0b01100000_00000000#16, .brSet),
   (0b01100001_00000000#16, .brNegBk),
   (0b01100010_00000000#16, .brNegEsp),
   (0b01100011_00000000#16, .brNegWm)] : List (Half × Instr)),
    decode p.1 = .ok p.2 ∧ encode p.2 = p.1 := by decide

/-- The words of R84's rows, format by format as R81 lays them out. -/
theorem test_decode_codec : ∀ p ∈ ([(0b01110000_00110010#16, .lpEnc 0x32#8),
   (0b01110001_00000001#16, .lpDec 0x01#8),
   (0b01110100_00000000#16, .slEnc),
   (0b01110101_00000000#16, .slDec),
   (0b01110110_00001010#16, .slCmd 0x0A#8),
   (0b01110111_00010011#16, .slRsp 0x13#8),
   (0b01111000_00000000#16, .slXsum),
   (0b01111100_00000000#16, .w21Enc),
   (0b01111101_00000000#16, .w21Chk)] : List (Half × Instr)),
    decode p.1 = .ok p.2 ∧ encode p.2 = p.1 := by decide

/-- Illegal words are rejected by name (R85), and by the interface of the opcode table. -/
theorem test_decode_illegal :
    decode 0x0000#16 = .error (.unlistedOpcode 0x00#8) ∧ decode 0x0101#16 = .error (.nonzeroLowByte 0x01#8) ∧
    decode 0x7102#16 = .error (.nonzeroFlagBits 0x02#8) ∧ decode 0xFFFF#16 = .error (.unlistedOpcode 0xFF#8) ∧
    decodeTableWord 16 0x7101 = some (.lpDec 0x01#8) ∧ decodeTableWord 16 0x7E00 = none := by decide

/-! ### States -/

/-- Every draw of the environment scripted to pass. -/
def calm : EnvScript := ⟨[false], [false, false, false, false], [.keep, .keep, .keep], 0⟩

/-- A busy block with a context open, these argument registers and this memory. -/
def ready (x0 x1 x2 x3 x4 : Word) (m : Memory) : State :=
  { State.reset with
    x := ⟨x0, x1, x2, x3, x4, 0#32, 0xAAAA#32, 0xBBBB#32⟩
    ctrl := ⟨false, false, true, false, true⟩
    pbuf := m
    env := calm }

/-- `ready` with this queue. -/
def queued (x0 x1 x2 x3 x4 : Word) (m : Memory) (q : List Byte) : State := { ready x0 x1 x2 x3 x4 m with rxq := q }

/-- `s` suspended at `c`, with this schedule. -/
def suspended (s : State) (c : Cont) (ts : List Turn) : State := { s with cont := some c, turns := ts }

/-- Bytes in `PBUF` from an address upward. -/
def at' (a : Nat) (bs : List Byte) : Memory := Memory.storeBytes [] a bs

/-- What a function reads from the next state of an outcome. -/
def got {α : Type} (o : Host.Outcome State Fault Refusal) (f : State → α) : Option α :=
  match o with
  | .next t => some (f t)
  | _ => none

/-- The nine bytes `"123456789"`. -/
def digits : List Byte := [0x31#8, 0x32#8, 0x33#8, 0x34#8, 0x35#8, 0x36#8, 0x37#8, 0x38#8, 0x39#8]

/-! ### Context and transport -/

/-- R101's worked example. -/
theorem test_ctxOpen : got (exec .ctxOpen { ready 1 2 3 4 5 [] with ctrl := ⟨true, true, true, true, true⟩, rxq := [1#8] })
    (fun t => (t.status, t.readReg 0x02, t.readReg 0x03, t.readReg 0x04, t.rxq)) =
    some (0x00#8, 0x00000004#32, 115200#32, 0x05FF#32, []) := by decide +kernel

/-- R102. -/
theorem test_ctxClose : got (exec .ctxClose (queued 0 0 0 0 0 [] [1#8])) (fun t => (t.status, t.ctrl.opened, t.rxq)) =
    some (0x00#8, false, []) := by decide +kernel

/-- R103's worked example. -/
theorem test_rxDrain : got (exec .rxDrain (queued 0 0 0 0 0 [] [0x43#8, 0x43#8, 0x43#8])) (fun t => (t.x.x6, t.rxq)) =
    some (3#32, []) := by decide +kernel

/-- R106's worked example. -/
theorem test_txRaw :
    got (exec .txRaw (ready 0 8 0 0 0 (at' 0 [0x72#8, 0x65#8, 0x62#8, 0x6F#8, 0x6F#8, 0x74#8, 0x0D#8, 0x0A#8]))) State.tx =
    some [0x72#8, 0x65#8, 0x62#8, 0x6F#8, 0x6F#8, 0x74#8, 0x0D#8, 0x0A#8] := by decide +kernel

/-- R105's worked example. -/
theorem test_rxRaw : got (exec .rxRaw (queued 0 2 0 0x100 0 [] [0x4F#8, 0x4B#8, 0x01#8]))
    (fun t => (t.pbuf, t.x.x6, t.rxq, t.status)) =
    some ([(0x100, 0x4F#8), (0x101, 0x4B#8)], 2#32, [0x01#8], 0x00#8) := by decide +kernel

/-- R105: no waiting, though the schedule would make the block rest, for bytes already queued and for `x[1] = 0`. -/
theorem test_rxRaw_at_once :
    got (exec .rxRaw { queued 0 2 0 0x100 0 [] [0x4F#8, 0x4B#8] with turns := [.hold 0] }) (fun t => (t.x.x6, t.ctrl.busy)) =
      some (2#32, false) ∧
    got (exec .rxRaw { queued 0 0 0 0x100 0 [] [] with turns := [.hold 0] }) (fun t => (t.x.x6, t.ctrl.busy)) =
      some (0#32, false) := by decide +kernel

/-! ### CRC -/

/-- `ready` with the two CRC units valid. -/
def crcReady (c16 : Half) (c32 : Word) (x1 x2 : Word) (m : Memory) : State :=
  { ready 0 x1 x2 0 0 m with crc16 := c16, crc32 := c32, valid := ⟨true, true, false, false⟩ }

/-- R126, R127, R137. -/
theorem test_crc_init : got (exec .c16Initf (ready 0 0 0 0 0 [])) (fun t => (t.crc16, t.readReg 0x10)) = some (0xFFFF#16, 1#32) ∧
    got (exec .c16Initx (ready 0 0 0 0 0 [])) (fun t => (t.crc16, t.readReg 0x10)) = some (0x0000#16, 1#32) ∧
    got (exec .c32Init (ready 0 0 0xDEADBEEF 0 0 [])) (fun t => (t.crc32, t.readReg 0x10)) = some (0xDEADBEEF#32, 2#32) := by
  decide +kernel

/-- R129's and R138's worked examples. -/
theorem test_crc_updb : got (exec (.c16Updb 0x31#8) (crcReady 0xFFFF 0 0 0 [])) State.crc16 = some 0xC782#16 ∧
    got (exec (.c16Updb 0x31#8) (crcReady 0x0000 0 0 0 [])) State.crc16 = some 0x2672#16 ∧
    got (exec (.c32Updb 0x31#8) (crcReady 0 0xFFFFFFFF 0 0 [])) State.crc32 = some 0x7C231048#32 := by decide +kernel

/-- R130's, R139's and R131's, R140's worked examples. -/
theorem test_crc_updm : got (exec .c16Updm (crcReady 0xFFFF 0 9 0 (at' 0 digits))) State.crc16 = some 0x29B1#16 ∧
    got (exec .c32Updm (crcReady 0 0xFFFFFFFF 9 0 (at' 0 digits))) State.crc32 = some 0x340BC6D9#32 ∧
    got (exec .c16Rd (crcReady 0x29B1 0 0 0 [])) (fun t => t.x.x6) = some 0x000029B1#32 ∧
    got (exec .c32Rd (crcReady 0 0x340BC6D9 0 0 [])) (fun t => t.x.x6) = some 0x340BC6D9#32 := by decide +kernel

/-- R132's and R141's worked examples, and R125's check value for R133. -/
theorem test_crc_calc :
    got (exec .c16Calcf (ready 0 8 0 0 0 (at' 0 [0x31#8, 0#8, 0#8, 0#8, 0#8, 0x10#8, 0x0E#8, 0#8]))) (fun t => t.x.x6)
      = some 0x0000505D#32 ∧
    got (exec .c16Calcx (ready 0 9 0 0 0 (at' 0 digits))) (fun t => t.x.x6) = some 0x000031C3#32 ∧
    got (exec .c32Calc (ready 0 9 0 0 0 (at' 0 digits))) (fun t => t.x.x6) = some 0x2DFD2D88#32 := by decide +kernel

/-! ### MD5 and SHA-256 -/

/-- `ready` with both digests started and these bytes in the two buffers. -/
def hashing (bs : List Byte) (x1 x3 : Word) (m : Memory) : State :=
  { ready 0 x1 0 x3 0 m with
    valid := ⟨false, false, true, true⟩
    md5 := bs.foldl Md5Unit.absorb ⟨md5Init, Vector.replicate 64 0xEE#8, 0#32⟩
    sha := bs.foldl ShaUnit.absorb ⟨shaInit, Vector.replicate 64 0xEE#8, 0#32⟩ }

/-- R157, R176. -/
theorem test_hash_init : got (exec .md5Init (ready 0 0 0 0 0 [])) (fun t => (t.readReg 0x20, t.md5.len, t.readReg 0x10)) =
      some (0x67452301#32, 0#32, 4#32) ∧
    got (exec .shaInit (ready 0 0 0 0 0 [])) (fun t => (t.readReg 0x30, t.sha.len, t.readReg 0x10)) =
      some (0x6A09E667#32, 0#32, 8#32) := by decide +kernel

/-- R161, R162, R177, R178: absorbing `61 62 63`. -/
theorem test_hash_update :
    got (exec (.md5Updb 0x63#8) (hashing [0x61#8, 0x62#8] 0 0 [])) (fun t => (t.md5.len, t.md5.words, t.md5.buf.toList.take 3)) =
      some (3#32, md5Init, [0x61#8, 0x62#8, 0x63#8]) ∧
    got (exec .md5Updm (hashing [] 3 0 (at' 0 [0x61#8, 0x62#8, 0x63#8]))) (fun t => (t.md5.len, t.md5.buf.toList.take 3)) =
      some (3#32, [0x61#8, 0x62#8, 0x63#8]) ∧
    got (exec (.shaUpdb 0x63#8) (hashing [0x61#8, 0x62#8] 0 0 [])) (fun t => (t.sha.len, t.sha.words, t.sha.buf.toList.take 3)) =
      some (3#32, shaInit, [0x61#8, 0x62#8, 0x63#8]) ∧
    got (exec .shaUpdm (hashing [] 3 0 (at' 0 [0x61#8, 0x62#8, 0x63#8]))) (fun t => (t.sha.len, t.sha.buf.toList.take 3)) =
      some (3#32, [0x61#8, 0x62#8, 0x63#8]) := by decide +kernel

/-- R158's worked example: the digest of `"abc"`. -/
theorem test_md5Fin : got (exec .md5Fin (hashing [0x61#8, 0x62#8, 0x63#8] 0 0x40 []))
    (fun t => (t.pbuf.bytes 0x40 16, t.readReg 0x20, t.md5.len, t.readReg 0x10)) =
    some ([0x90#8, 0x01#8, 0x50#8, 0x98#8, 0x3C#8, 0xD2#8, 0x4F#8, 0xB0#8, 0xD6#8, 0x96#8, 0x3F#8, 0x7D#8, 0x28#8, 0xE1#8,
      0x7F#8, 0x72#8], 0x98500190#32, 3#32, 8#32) := by decide +kernel

/-- R163's worked example. -/
theorem test_md5Calc : got (exec .md5Calc (ready 0 9 0 0x40 0 (at' 0 digits))) (fun t => t.pbuf.bytes 0x40 16) =
    some [0x25#8, 0xF9#8, 0xE7#8, 0x94#8, 0x32#8, 0x3B#8, 0x45#8, 0x38#8, 0x85#8, 0xF5#8, 0x18#8, 0x1F#8, 0x1B#8, 0x62#8,
      0x4D#8, 0x0B#8] := by decide +kernel

/-- R179's worked example: the digest of `"abc"`. -/
theorem test_shaFin : got (exec .shaFin (hashing [0x61#8, 0x62#8, 0x63#8] 0 0x40 []))
    (fun t => (t.pbuf.bytes 0x40 32, t.readReg 0x30, t.sha.len, t.readReg 0x10)) =
    some ([0xBA#8, 0x78#8, 0x16#8, 0xBF#8, 0x8F#8, 0x01#8, 0xCF#8, 0xEA#8, 0x41#8, 0x41#8, 0x40#8, 0xDE#8, 0x5D#8, 0xAE#8,
      0x22#8, 0x23#8, 0xB0#8, 0x03#8, 0x61#8, 0xA3#8, 0x96#8, 0x17#8, 0x7A#8, 0x9C#8, 0xB4#8, 0x10#8, 0xFF#8, 0x61#8,
      0xF2#8, 0x00#8, 0x15#8, 0xAD#8], 0xBA7816BF#32, 3#32, 4#32) := by decide +kernel

/-- R181's worked example. -/
theorem test_shaCalc : got (exec .shaCalc (ready 0 9 0 0x40 0 (at' 0 digits))) (fun t => t.pbuf.bytes 0x40 32) =
    some [0x15#8, 0xE2#8, 0xB0#8, 0xD3#8, 0xC3#8, 0x38#8, 0x91#8, 0xEB#8, 0xB0#8, 0xF1#8, 0xEF#8, 0x60#8, 0x9E#8, 0xC4#8,
      0x19#8, 0x42#8, 0x0C#8, 0x20#8, 0xE3#8, 0x20#8, 0xCE#8, 0x94#8, 0xC6#8, 0x5F#8, 0xBC#8, 0x8C#8, 0x33#8, 0x12#8,
      0x44#8, 0x8E#8, 0xB2#8, 0x25#8] := by decide +kernel

/-! ### XMODEM and baud rate -/

/-- R194's and R195's worked examples. -/
theorem test_xm_config : got (exec (.xmPad 0x1A#8) { ready 0 0 0 0 0 [] with xmCfg := ⟨0xFF#8, 5#8⟩ }) (fun t => t.readReg 0x04)
      = some 0x051A#32 ∧
    got (exec (.xmMaxr 0x0A#8) { ready 0 0 0 0 0 [] with xmCfg := ⟨0xFF#8, 5#8⟩ }) (fun t => t.readReg 0x04)
      = some 0x0AFF#32 := by decide +kernel

/-- R198's worked example, the bytes of the peer queued at the start. -/
theorem test_xmSend : ∀ o, o = exec .xmSend (queued 0 3 0 0 0 (at' 0 [0x01#8, 0x02#8, 0x03#8]) [0x43#8, 0x06#8, 0x06#8]) →
    got o (fun t => (t.x.x6, t.x.x7, t.xmSent, t.readReg 0x05)) = some (1#32, 1#32, 3#32, 0x0000010C#32) ∧
    got o (fun t => t.tx.take 6) = some [0x02#8, 0x01#8, 0xFE#8, 0x01#8, 0x02#8, 0x03#8] := by
  rintro o rfl
  decide +kernel

/-- R205: the empty payload. -/
theorem test_xmSend_empty : got (exec .xmSend (queued 0 0 0 0 0 [] [0x15#8, 0x06#8]))
    (fun t => (t.x.x6, t.x.x7, t.tx, t.evt, t.readReg 0x05)) = some (0#32, 0#32, [0x04#8], [], 4#32) := by decide +kernel

/-- R234's worked example. -/
theorem test_brSet : got (exec .brSet (ready 0 0 921600 0 0 [])) (fun t => (t.baudCur, t.status)) =
    some (0x000E1000#32, 0x00#8) := by decide +kernel

/-- R238, first attempt answered (fields as R46 packs them). -/
theorem test_brNegBk : got (exec .brNegBk (queued 0 2 921600 0x100 1 (at' 0 [0xAA#8, 0xBB#8]) [0x07#8]))
    (fun t => (t.tx, t.baudCur, t.readReg 0x0A, t.x.x6, t.pbuf.byteAt 0x100)) =
    some ([0xAA#8, 0xBB#8], 921600#32, 0x0104#32, 1#32, 0x07#8) := by decide +kernel

/-- R244's worked example. -/
theorem test_brNegEsp : got (exec .brNegEsp (queued 0 0 921600 0x200 0 []
      [0xC0#8, 0x01#8, 0x0F#8, 0x02#8, 0#8, 0#8, 0#8, 0#8, 0#8, 0#8, 0#8, 0xC0#8]))
    (fun t => (t.tx, t.pbuf.bytes 0x200 10, t.x.x6, t.x.x7, t.baudCur, t.readReg 0x0A)) =
    some ([0xC0#8, 0x00#8, 0x0F#8, 0x08#8, 0#8, 0#8, 0#8, 0#8, 0#8, 0#8, 0x10#8, 0x0E#8, 0#8, 0#8, 0#8, 0#8, 0#8, 0xC0#8],
      [0x01#8, 0x0F#8, 0x02#8, 0#8, 0#8, 0#8, 0#8, 0#8, 0#8, 0#8], 0#32, 10#32, 921600#32, 0x0104#32) := by decide +kernel

/-- R246's worked example. -/
theorem test_brNegWm : got (exec .brNegWm (ready 0 0 921600 0 0 [])) (fun t => (t.tx, t.baudCur, t.readReg 0x0A)) =
    some ([0x21#8, 0x0A#8, 0x00#8, 0x5D#8, 0x50#8, 0x31#8, 0#8, 0#8, 0#8, 0x00#8, 0x10#8, 0x0E#8, 0x00#8], 921600#32,
      0x0104#32) := by decide +kernel

/-! ### Codec -/

/-- R273's worked example. -/
theorem test_lpEnc : got (exec (.lpEnc 0x32#8) (ready 0 8 0 0 0 (at' 0 [0#8, 0#8, 0#8, 0#8, 0#8, 0x10#8, 0#8, 0#8]))) State.tx =
    some [0x32#8, 0x18#8, 0x08#8, 0#8, 0#8, 0#8, 0#8, 0#8, 0#8, 0x10#8, 0#8, 0#8] := by decide +kernel

/-- R275's worked example. -/
theorem test_lpDec : got (exec (.lpDec 1#8) (queued 0 0 0 0x100 0 []
      [0x50#8, 0x44#8, 0x4F#8, 0x4B#8, 0x04#8, 0x00#8, 0x01#8, 0x00#8, 0x02#8, 0x06#8]))
    (fun t => (t.pbuf.bytes 0x100 4, t.x.x6, t.x.x7, t.status)) =
    some ([0x01#8, 0x00#8, 0x02#8, 0x06#8], 4#32, 1#32, 0x00#8) := by decide +kernel

/-- R283's and R284's worked examples. -/
theorem test_slip :
    got (exec .slEnc (ready 0 4 0 0 0 (at' 0 [0#8, 0x10#8, 0#8, 0#8]))) State.tx =
      some [0xC0#8, 0#8, 0x10#8, 0#8, 0#8, 0xC0#8] ∧
    got (exec .slDec (queued 0 0 0 0x300 0 [] [0#8, 0xC0#8, 0x01#8, 0xDB#8, 0xDC#8, 0xDB#8, 0xDD#8, 0x02#8, 0xC0#8, 0xC0#8]))
      (fun t => (t.pbuf.bytes 0x300 4, t.x.x6, t.rxq)) =
      some ([0x01#8, 0xC0#8, 0xDB#8, 0x02#8], 4#32, [0xC0#8]) := by decide +kernel

/-- R288's worked example. -/
theorem test_slCmd : got (exec (.slCmd 0x0A#8) (ready 0 4 0 0 0 (at' 0 [0#8, 0x10#8, 0#8, 0x40#8]))) State.tx =
    some [0xC0#8, 0#8, 0x0A#8, 0x04#8, 0#8, 0#8, 0#8, 0#8, 0#8, 0#8, 0x10#8, 0#8, 0x40#8, 0xC0#8] := by decide +kernel

/-- R290's worked examples: a success and a status fault. -/
theorem test_slRsp :
    got (exec (.slRsp 0x0A#8) (ready 0 10 0 0 0
      (at' 0 [0x01#8, 0x0A#8, 0x02#8, 0#8, 0x83#8, 0x1D#8, 0xF0#8, 0#8, 0#8, 0#8]))) (fun t => (t.x.x6, t.x.x7)) =
      some (0x00F01D83#32, 0#32) ∧
    got (exec (.slRsp 0x0A#8) (ready 0 10 0 0 0
      (at' 0 [0x01#8, 0x0A#8, 0x02#8, 0#8, 0#8, 0#8, 0#8, 0#8, 0x01#8, 0x05#8]))) (fun t => (t.status, t.info)) =
      some (0x05#8, 0x00000501#32) := by decide +kernel

/-- R287's worked examples. -/
theorem test_slXsum : got (exec .slXsum (ready 0 9 0 0 0 (at' 0 digits))) (fun t => t.x.x6) = some 0xDE#32 ∧
    got (exec .slXsum (ready 0 0 0 0 0 [])) (fun t => t.x.x6) = some 0xEF#32 := by decide +kernel

/-- R297's worked example. -/
theorem test_w21Enc : got (exec .w21Enc (ready 0 8 0x4A 0 0 (at' 0 [0#8, 0x10#8, 0#8, 0#8, 0#8, 0x10#8, 0#8, 0#8]))) State.tx =
    some [0x21#8, 0x0E#8, 0#8, 0xE3#8, 0x30#8, 0x4A#8, 0#8, 0#8, 0#8, 0#8, 0x10#8, 0#8, 0#8, 0#8, 0x10#8, 0#8, 0#8] := by
  decide +kernel

/-- R298's worked examples: a good frame, and byte 9 changed. -/
theorem test_w21Chk :
    got (exec .w21Chk (ready 0 13 0 0 0
      (at' 0 [0x21#8, 0x0A#8, 0#8, 0x5D#8, 0x50#8, 0x31#8, 0#8, 0#8, 0#8, 0#8, 0x10#8, 0x0E#8, 0#8]))) (fun t => (t.x.x6, t.x.x7)) =
      some (0x31#32, 4#32) ∧
    got (exec .w21Chk (ready 0 13 0 0 0
      (at' 0 [0x21#8, 0x0A#8, 0#8, 0x5D#8, 0x50#8, 0x31#8, 0#8, 0#8, 0#8, 0x01#8, 0x10#8, 0x0E#8, 0#8])))
      (fun t => (t.status, t.info.extractLsb' 16 16)) = some (0x04#8, 10#16) := by decide +kernel

/-- A transfer of `total` bytes from address 0 at this point, `retry` retransmissions made. -/
def sending (c : Cont) (t : Turn) (total k : Word) (retry : Byte) (m : Memory) : State :=
  { suspended (ready 0 0 0 0 0 m) c [t] with xmTotal := total, xmK := k, xmStat := ⟨.send, true, 1#8, retry⟩ }

/-! ### The machine -/

/-- `withFetchWord`: the very next step runs the word; an illegal word raises (R85). -/
theorem test_step : got (step (State.reset.withFetchWord 16 0x501A)) (fun t => (t.readReg 0x04, t.ctrl.busy, t.status)) =
      some (0x051A#32, false, 0x00#8) ∧
    got (step (State.reset.withFetchWord 16 0x7E00)) (fun t => (t.status, t.info, t.ctrl.fault)) =
      some (0x10#8, 0x7E00#32, true) := by decide +kernel

/-- R18, R25: with `43 06 06` queued, the schedule lets a `CANCEL` come between packet 0 and its `ACK`, which R199 sees at the
next checkpoint. -/
theorem test_rest_between_packets :
    let s := queued 0 1 0 0 0 [(0, 0x5A#8)] [0x43#8, 0x06#8, 0x06#8]
    got (exec .xmSend { s with turns := [.hold 1] }) (fun t => (t.tx.length, t.rxq, t.ctrl.busy)) =
      some (1029, [0x06#8, 0x06#8], true) ∧
    got (step { sending .xmPacket (.host (.cancel true)) 1 0 0 [] with rxq := [0x06#8, 0x06#8] })
      (fun t => (t.status, t.xmK, t.rxq)) = some (0x09#8, 1#32, [0x06#8]) := by decide +kernel

/-- R275: the schedule lets another agent step in the delay between two polls. -/
theorem test_rest_in_delay :
    got (exec (.lpDec 0#8) { queued 0 0 0 0 0 [] [0x50#8, 0x44#8, 0x4F#8, 0x4B#8] with turns := [.hold 1] })
      (fun t => (t.cont, t.rxq)) = some (some (.lpPoll false 1), [0x4F#8, 0x4B#8]) := by decide +kernel

/-- R375: a word presented while busy changes nothing but the port's answer. -/
theorem test_busy : step { suspended (ready 0 2 0 0 0 []) .rxRaw [.host (.present 0x501A#16)] with reply := .accepted } =
    .next { suspended (ready 0 2 0 0 0 []) .rxRaw [] with reply := .refused } := rfl

/-! ### Witnesses: the hypotheses of each statement can be met -/

/-- `ready` with no context. -/
def closed (x0 x1 x2 x3 x4 : Word) : State := { ready x0 x1 x2 x3 x4 [] with ctrl := ⟨false, false, false, false, true⟩ }

/-- An idle block about to take this turn. -/
def idle (t : Turn) : State := { ready 0 0 0 0 0 [] with ctrl := ⟨false, false, true, false, false⟩, turns := [t] }

/-- `s` where the next write fails. -/
def writeFailing (s : State) : State := { s with env := ⟨[], [true], [.keep], 0⟩ }

/-- `s` with the cancel flag set. -/
def cancelling (s : State) : State := { s with ctrl := { s.ctrl with cancel := true } }

/-- What memory shows of a range is some byte string. -/
theorem shown (m : Memory) (a n : Nat) : ∃ bs, m.shows a n bs := ⟨_, Memory.shows_bytes m a n⟩

/-- `s` once the peer's byte, its only turn, is taken. -/
def grown (s : State) (b : Byte) : State := { s with turns := [], rxq := s.rxq ++ [b] }

/-- The premise `agentMoved` of the statements about a wait, met by every state that these witnesses pair with `grown`. -/
theorem witness_agentMoved (s : State) (b : Byte) (h : s.turns = [.peer b]) : s.agentMoved (grown s b) :=
  s.agentMoved_of_peer b [] h rfl

/-- No instruction has the word 0x0000. -/
theorem zero_selects_nothing : selectsNothing 0x0000#16 := by
  intro i _ h
  have := congrArg opcOf h
  cases i <;> simp [encode, Instr.opc, Laws.EncodingMatchesRow.opc_append] at this <;> revert this <;> decide

theorem witness_DecodeInvertsEncode : (Instr.lpDec 1#8).wellFormed = true := by decide

theorem witness_EncodeInvertsDecode : decode 0x7101#16 = .ok (.lpDec 1#8) := by decide

theorem witness_IllegalWordsRaise : (idle (.host (.present 0x0000#16))).presents 0x0000#16 [] ∧ selectsNothing 0x0000#16 ∧
    (∀ o ∈ [0x00, 0x06, 0x0F, 0x17, 0x1F, 0x21, 0x26, 0x2F, 0x31, 0x36, 0x3F, 0x41, 0x46, 0x4F, 0x53, 0x5F, 0x64, 0x6F, 0x72,
      0x73, 0x79, 0x7B, 0x7E, 0x7F, 0x80, 0xFF], unlistedOpcode o = true) ∧
    Instr.ctxOpen.format = .n ∧ 0x01#8 ≠ 0#8 ∧ 0x02#8 &&& 0xFE#8 ≠ 0#8 ∧ 0x80#8 &&& 0xFE#8 ≠ 0#8 :=
  ⟨by decide, zero_selects_nothing, by decide, by decide, by decide, by decide, by decide⟩

theorem witness_StepRunsDecodedInstruction : (idle (.host (.present 0x0300#16))).presents 0x0300#16 [] ∧
    decode 0x0300#16 = .ok .rxDrain := by decide

theorem witness_BusyRefusesWord : (suspended (ready 0 0 0 0 0 []) .slDec [.host (.present 0x0100#16)]).ctrl.busy = true ∧
    (suspended (ready 0 0 0 0 0 []) .slDec [.host (.present 0x0100#16)]).turns = .host (.present 0x0100#16) :: [] := by decide

/-- Every kind of host action on a busy block, and a step that answers a next state. -/
theorem witness_HostExclusionWhileBusy : (∀ a ∈ ([.setX 7 1#32, .getX 0, .stub true, .poke 0 [1#8], .peek 0 1, .get 0x02,
      .cancel true, .cancel false, .put 0x02 1#32, .put 0x02 2#32, .put 0x00 1#32] : List HostAction),
      let s := suspended (ready 0 0 0 0 0 []) .slDec [.host a];
      s.ctrl.busy = true ∧ s.turns = .host a :: []) ∧
    (1#32).getLsbD 0 = true ∧ (2#32).getLsbD 0 = false ∧ (0x00 : Nat) ≠ 0x02 ∧
    (∃ t, step (suspended (ready 0 0 0 0 0 []) .slDec [.hold 0]) = .next t) :=
  ⟨by decide, by decide, by decide, by decide, _, rfl⟩

theorem witness_IdleHostAccess : (∀ a ∈ ([.setX 7 1#32, .getX 0, .poke 0xFFFFFF [1#8], .peek 0xFFFFFF 1, .stub true,
      .cancel true, .cancel false, .get 0x02, .put 0x02 3#32, .put 0x00 1#32, .poke 0x1000000 [1#8], .peek 0xFFFFFF 2] :
      List HostAction),
      (idle (.host a)).ctrl.busy = false ∧ (idle (.host a)).cont = none ∧ (idle (.host a)).turns = .host a :: []) ∧
    0xFFFFFF + [1#8].length ≤ 2 ^ 24 ∧ 0xFFFFFF + 1 ≤ 2 ^ 24 ∧ (0x00 : Nat) ≠ 0x02 ∧
    2 ^ 24 < 0x1000000 + [1#8].length ∧ 2 ^ 24 < 0xFFFFFF + 2 := by decide

/-- The numbers at the ends of the four gaps of the register map. -/
theorem witness_RegisterMapReads : ∀ r ∈ [0x0C, 0x0F, 0x13, 0x1F, 0x25, 0x2F, 0x39],
    (0x0C ≤ r ∧ r ≤ 0x0F) ∨ (0x13 ≤ r ∧ r ≤ 0x1F) ∨ (0x25 ≤ r ∧ r ≤ 0x2F) ∨ 0x39 ≤ r := by decide

/-- A block that waits for a frame, about to take this turn. -/
def awaitingFrame (t : Turn) : State := { suspended (ready 0 0 0 0 0 []) .slDec [t] with opcur := some 0x7500#16 }

/-- It meets the invariant. -/
theorem awaitingFrame_inv (t : Turn) : (awaitingFrame t).Inv := by
  constructor <;> simp [awaitingFrame, suspended, ready, State.reset, State.xmAgrees, State.brAgrees, State.waitAgrees, fits,
    blockCodes, xmPackets, Config.xmBlock] <;> decide

theorem witness_StepKeepsInvariant : (awaitingFrame (.peer 0x55#8)).Inv ∧ ∃ t, step (awaitingFrame (.peer 0x55#8)) = .next t :=
  ⟨awaitingFrame_inv _, _, rfl⟩

theorem witness_CtxOpenResets : (ready 0 0 0 0 0 []).env.connectFails = false ∧
    ({ ready 0 0 0 0 0 [] with env := ⟨[true], [], [], 0⟩ } : State).env.connectFails = true := by decide

theorem witness_CtxCloseAndDrain : (closed 0 0 0 0 0).ctrl.opened = false ∧ (ready 0 0 0 0 0 []).ctrl.opened = true := by decide

/-- The last byte of `PBUF` and one past it, the empty range, a failing write. -/
theorem witness_TxRawTransmits : (closed 0 0 0 0 0).ctrl.opened = false ∧
    (let s := ready 0xFFFFFF 2 0 0 0 []; s.ctrl.opened = true ∧ ¬ fits s.x.x0 s.x.x1.toNat) ∧
    (let s := ready 0x1000000 0 0 0 0 []; s.ctrl.opened = true ∧ fits s.x.x0 s.x.x1.toNat ∧ s.x.x1 = 0#32 ∧
      s.pbuf.shows s.x.x0.toNat s.x.x1.toNat []) ∧
    (let s := ready 0xFFFFFF 1 0 0 0 [(0xFFFFFF, 0x5A#8)]; s.ctrl.opened = true ∧ fits s.x.x0 s.x.x1.toNat ∧ s.x.x1 ≠ 0#32 ∧
      s.pbuf.shows s.x.x0.toNat s.x.x1.toNat [0x5A#8] ∧ s.env.writeFails = false ∧ (writeFailing s).env.writeFails = true) := by
  decide

theorem witness_RxRawReceives : (closed 0 0 0 0 0).ctrl.opened = false ∧
    (let s := ready 0 2 0 0xFFFFFF 0 []; s.ctrl.opened = true ∧ ¬ fits s.x.x3 s.x.x1.toNat) ∧
    (let s := queued 0 1 0 0xFFFFFF 0 [] [0x5A#8];
      s.ctrl.opened = true ∧ fits s.x.x3 s.x.x1.toNat ∧ s.x.x1.toNat ≤ s.rxq.length ∧ s.unheld) ∧
    (let s := queued 0 1 0 0xFFFFFF 0 [] [];
      s.ctrl.opened = true ∧ fits s.x.x3 s.x.x1.toNat ∧ s.rxq.length < s.x.x1.toNat) ∧
    (let s := suspended (queued 0 1 0 0xFFFFFF 0 [] []) .rxRaw [.peer 0x5A#8];
      s.cont = some .rxRaw ∧ fits s.x.x3 s.x.x1.toNat ∧ s.x.x1.toNat = s.rxq.length + 1 ∧ s.turns = .peer 0x5A#8 :: [] ∧
      holdOf [] = none) ∧
    (let s := suspended (queued 0 1 0 0xFFFFFF 0 [] []) .rxRaw [.timeout];
      s.cont = some .rxRaw ∧ s.rxq.length < s.x.x1.toNat ∧ s.turns = .timeout :: []) := by decide

/-- Both values of the valid bit, and the ends of a range. -/
theorem witness_Crc16Streaming : (ready 0 0 0 0 0 []).valid.v16 = false ∧
    (let s := { crcReady 0 0 2 0 [] with x := ⟨0xFFFFFF#32, 2#32, 0#32, 0#32, 0#32, 0#32, 0#32, 0#32⟩ };
      s.valid.v16 = true ∧ ¬ fits s.x.x0 s.x.x1.toNat) ∧
    (let s := crcReady 0 0 1 0 [(0, 0x5A#8)];
      s.valid.v16 = true ∧ fits s.x.x0 s.x.x1.toNat ∧ s.pbuf.shows s.x.x0.toNat s.x.x1.toNat [0x5A#8]) := by decide

theorem witness_Crc32Streaming : (ready 0 0 0 0 0 []).valid.v32 = false ∧
    (let s := { crcReady 0 0 2 0 [] with x := ⟨0xFFFFFF#32, 2#32, 0#32, 0#32, 0#32, 0#32, 0#32, 0#32⟩ };
      s.valid.v32 = true ∧ ¬ fits s.x.x0 s.x.x1.toNat) ∧
    (let s := crcReady 0 0 1 0 [(0, 0x5A#8)];
      s.valid.v32 = true ∧ fits s.x.x0 s.x.x1.toNat ∧ s.pbuf.shows s.x.x0.toNat s.x.x1.toNat [0x5A#8]) := by decide

theorem witness_CrcOneShot : (let s := ready 0xFFFFFF 2 0 0 0 []; ¬ fits s.x.x0 s.x.x1.toNat) ∧
    (let s := ready 0xFFFFFF 1 0 0 0 [(0xFFFFFF, 0x5A#8)];
      fits s.x.x0 s.x.x1.toNat ∧ s.pbuf.shows s.x.x0.toNat s.x.x1.toNat [0x5A#8]) := by decide

/-- The digest's own range at the end of `PBUF` and one past it. -/
theorem witness_Md5InitAndCalc : (let s := ready 0xFFFFFF 2 0 0 0 []; ¬ fits s.x.x0 s.x.x1.toNat) ∧
    (let s := ready 0 0 0 0xFFFFF1 0 []; fits s.x.x0 s.x.x1.toNat ∧ ¬ fits s.x.x3 16) ∧
    (let s := ready 0 1 0 0xFFFFF0 0 [(0, 0x5A#8)];
      fits s.x.x0 s.x.x1.toNat ∧ fits s.x.x3 16 ∧ s.pbuf.shows s.x.x0.toNat s.x.x1.toNat [0x5A#8]) := by decide

theorem witness_ShaInitAndCalc : (let s := ready 0xFFFFFF 2 0 0 0 []; ¬ fits s.x.x0 s.x.x1.toNat) ∧
    (let s := ready 0 0 0 0xFFFFE1 0 []; fits s.x.x0 s.x.x1.toNat ∧ ¬ fits s.x.x3 32) ∧
    (let s := ready 0 1 0 0xFFFFE0 0 [(0, 0x5A#8)];
      fits s.x.x0 s.x.x1.toNat ∧ fits s.x.x3 32 ∧ s.pbuf.shows s.x.x0.toNat s.x.x1.toNat [0x5A#8]) := by decide

/-- The freshly started units have absorbed the empty message; a one-byte range is next. -/
theorem witness_Md5StreamingLaw : let s := hashing [] 1 0xFFFFF0 [(0, 0x5A#8)];
    s.valid.vmd5 = true ∧ s.md5.Absorbed [] ∧ ([] : List Byte).length < 2 ^ 24 ∧ fits s.x.x0 s.x.x1.toNat ∧
    s.pbuf.shows s.x.x0.toNat s.x.x1.toNat [0x5A#8] ∧ ([] : List Byte).length + [0x5A#8].length ≤ 2 ^ 24 ∧ fits s.x.x3 16 :=
  ⟨by decide, ⟨by decide, by decide, by decide⟩, by decide, by decide, by decide, by decide, by decide⟩

theorem witness_ShaStreamingLaw : let s := hashing [] 1 0xFFFFE0 [(0, 0x5A#8)];
    s.valid.vsha = true ∧ s.sha.Absorbed [] ∧ ([] : List Byte).length < 2 ^ 24 ∧ fits s.x.x0 s.x.x1.toNat ∧
    s.pbuf.shows s.x.x0.toNat s.x.x1.toNat [0x5A#8] ∧ ([] : List Byte).length + [0x5A#8].length ≤ 2 ^ 24 ∧ fits s.x.x3 32 :=
  ⟨by decide, ⟨by decide, by decide, by decide⟩, by decide, by decide, by decide, by decide, by decide⟩

/-- `hashing` with both lengths at this value. -/
def absorbed (n : Word) (x0 x1 x3 : Word) : State :=
  { ready x0 x1 0 x3 0 [] with
    valid := ⟨false, false, true, true⟩
    md5 := ⟨md5Init, Vector.replicate 64 0#8, n⟩
    sha := ⟨shaInit, Vector.replicate 64 0#8, n⟩ }

/-- The limit of 2^24 bytes, at its edge. -/
theorem witness_Md5Faults : (ready 0 0 0 0 0 []).valid.vmd5 = false ∧
    (let s := absorbed 0x1000000 0 0 0; s.valid.vmd5 = true ∧ 2 ^ 24 < s.md5.len.toNat + 1) ∧
    (let s := absorbed 0 0xFFFFFF 2 0; s.valid.vmd5 = true ∧ ¬ fits s.x.x0 s.x.x1.toNat) ∧
    (let s := absorbed 0xFFFFFF 0 2 0;
      s.valid.vmd5 = true ∧ fits s.x.x0 s.x.x1.toNat ∧ 2 ^ 24 < s.md5.len.toNat + s.x.x1.toNat) ∧
    (let s := absorbed 0 0 0 0xFFFFF1; s.valid.vmd5 = true ∧ ¬ fits s.x.x3 16) := by decide

theorem witness_ShaFaults : (ready 0 0 0 0 0 []).valid.vsha = false ∧
    (let s := absorbed 0x1000000 0 0 0; s.valid.vsha = true ∧ 2 ^ 24 < s.sha.len.toNat + 1) ∧
    (let s := absorbed 0 0xFFFFFF 2 0; s.valid.vsha = true ∧ ¬ fits s.x.x0 s.x.x1.toNat) ∧
    (let s := absorbed 0xFFFFFF 0 2 0;
      s.valid.vsha = true ∧ fits s.x.x0 s.x.x1.toNat ∧ 2 ^ 24 < s.sha.len.toNat + s.x.x1.toNat) ∧
    (let s := absorbed 0 0 0 0xFFFFE1; s.valid.vsha = true ∧ ¬ fits s.x.x3 32) := by decide

/-- The first packet of a three-byte payload, and the last of a payload of 2^24 bytes. -/
theorem witness_XmPacketBytes : 0 < xmPackets [0x01#8, 0x02#8, 0x03#8].length ∧ 16383 < xmPackets (2 ^ 24) := by decide

/-- One packet in CRC mode, and the empty payload in checksum mode. -/
theorem witness_XmSendDelivers :
    (let s := queued 0 1 0 0 0 [(0, 0x5A#8)] (0x43#8 :: (List.replicate (1 + 1) 0x06#8 ++ [0x43#8]));
      s.ctrl.opened = true ∧ s.ctrl.cancel = false ∧ fits s.x.x0 s.x.x1.toNat ∧
      s.pbuf.shows s.x.x0.toNat s.x.x1.toNat [0x5A#8] ∧ 1 = (s.x.x1.toNat + 1023) / 1024 ∧ s.writesPass (1 + 1) ∧ s.unheld) ∧
    (let s := queued 0 0 0 0 0 [] (0x15#8 :: (List.replicate (0 + 1) 0x06#8 ++ []));
      s.ctrl.opened = true ∧ s.ctrl.cancel = false ∧ fits s.x.x0 s.x.x1.toNat ∧
      s.pbuf.shows s.x.x0.toNat s.x.x1.toNat [] ∧ 0 = (s.x.x1.toNat + 1023) / 1024 ∧ s.writesPass (0 + 1) ∧ s.unheld) := by
  decide

theorem witness_XmSendStarts : (closed 0 0 0 0 0).ctrl.opened = false ∧
    (let s := ready 0xFFFFFF 2 0 0 0 []; s.ctrl.opened = true ∧ ¬ fits s.x.x0 s.x.x1.toNat) ∧
    (let s := ready 0xFFFFFF 1 0 0 0 []; s.ctrl.opened = true ∧ fits s.x.x0 s.x.x1.toNat ∧ s.rxq = []) ∧
    (let s := queued 0xFFFFFF 1 0 0 0 [] [0x44#8];
      s.ctrl.opened = true ∧ fits s.x.x0 s.x.x1.toNat ∧ s.rxq = 0x44#8 :: [] ∧ s.unheld ∧ 0x44#8 ≠ 0x43#8 ∧
      0x44#8 ≠ 0x15#8) := by decide

theorem witness_XmInitiation : (∀ e ∈ ([.peer 0x43#8, .peer 0x15#8, .peer 0x44#8, .timeout] : List Turn),
      let s := sending .xmInit e 1 0 0 [(0, 0x5A#8)];
      s.cont = some .xmInit ∧ s.rxq = [] ∧ s.turns = e :: [] ∧ holdOf [] = none ∧
      s.ctrl.cancel = false ∧ s.env.writeFails = false ∧ s.xmK = 0#32 ∧ 0 < s.xmTotal.toNat ∧
      s.pbuf.shows s.xmBase.toNat s.xmTotal.toNat [0x5A#8] ∧ (writeFailing s).env.writeFails = true ∧
      (sending .xmInit e 0 0 0 []).xmTotal = 0#32) ∧ 0x44#8 ≠ 0x43#8 ∧ 0x44#8 ≠ 0x15#8 := by decide

/-- The retry just under the limit of 6 and the one that reaches it; a packet that is not the last and the last. -/
theorem witness_XmPacketResponse :
    (∀ e ∈ ([.peer 0x18#8, .peer 0x06#8, .peer 0x15#8, .timeout] : List Turn), ∀ retry ∈ [4#8, 5#8],
      let s := sending .xmPacket e 1 0 retry [(0, 0x5A#8)];
      s.cont = some .xmPacket ∧ s.rxq = [] ∧ s.turns = e :: [] ∧ holdOf [] = none ∧
      1 = (s.xmTotal.toNat + 1023) / 1024 ∧ s.xmK.toNat < 1 ∧ s.pbuf.shows s.xmBase.toNat s.xmTotal.toNat [0x5A#8] ∧
      6 = max 1 (s.xmCfg.maxr.toNat + if s.params.xmFirstExtra then 1 else 0) ∧ s.ctrl.cancel = false ∧
      s.env.writeFails = false ∧ (writeFailing s).env.writeFails = true ∧ s.xmK.toNat + 1 = 1) ∧
    (4#8).toNat + 1 < 6 ∧ 6 ≤ (5#8).toNat + 1 ∧
    (let s := sending .xmPacket (.peer 0x06#8) 1025 0 0 [];
      2 = (s.xmTotal.toNat + 1023) / 1024 ∧ s.xmK.toNat + 1 < 2 ∧ s.env.writeFails = false ∧
      (writeFailing s).env.writeFails = true) := by decide

theorem witness_XmPacketResponse_payload : ∃ p, (sending .xmPacket (.peer 0x06#8) 1025 0 0 []).pbuf.shows 0 1025 p := shown _ _ _

theorem witness_XmEotResponse :
    (∀ e ∈ ([.peer 0x18#8, .peer 0x06#8, .peer 0x15#8, .timeout] : List Turn), ∀ retry ∈ [4#8, 5#8],
      let s := sending .xmEot e 1 1 retry [];
      s.cont = some .xmEot ∧ s.rxq = [] ∧ s.turns = e :: [] ∧ holdOf [] = none ∧
      1 = (s.xmTotal.toNat + 1023) / 1024 ∧
      6 = max 1 (s.xmCfg.maxr.toNat + if s.params.xmFirstExtra then 1 else 0) ∧ s.ctrl.cancel = false ∧
      s.env.writeFails = false ∧ (writeFailing s).env.writeFails = true) := by decide

/-- A negotiation whose command is one byte, at this point and attempt. -/
def negotiating (c : Cont) (ts : List Turn) (attempt : BitVec 5) (q : List Byte) : State :=
  { suspended (queued 0 1 9600 0xFFFFFF 1 [] q) c ts with brTarget := 9600#32, brStat := ⟨.switched, attempt⟩ }

theorem witness_CancelledAtCheckpoint :
    (let s := cancelling (queued 0xFFFFFF 1 0 0 0 [] [0x43#8]);
      s.ctrl.cancel = true ∧ s.ctrl.opened = true ∧ fits s.x.x0 s.x.x1.toNat ∧ s.rxq = 0x43#8 :: [] ∧ s.unheld) ∧
    (let s := cancelling (sending .xmPacket (.peer 0x06#8) 1 0 0 []);
      s.ctrl.cancel = true ∧ s.cont = some .xmPacket ∧ s.rxq = [] ∧ s.turns = .peer 0x06#8 :: [] ∧
      holdOf [] = none ∧ s.xmK.toNat < (s.xmTotal.toNat + 1023) / 1024) ∧
    (∀ b ∈ [0x43#8, 0x15#8], let s := cancelling (sending .xmInit (.peer b) 0 0 0 []);
      s.ctrl.cancel = true ∧ s.cont = some .xmInit ∧ s.rxq = [] ∧ s.turns = .peer b :: [] ∧ holdOf [] = none) ∧
    (∀ c ∈ [.xmPacket, .xmEot], ∀ e ∈ [.timeout, .peer 0x15#8], let s := cancelling (sending c e 1 1 4 []);
      s.ctrl.cancel = true ∧ s.cont = some c ∧ s.rxq = [] ∧ s.turns = e :: [] ∧ holdOf [] = none ∧
      6 = max 1 (s.xmCfg.maxr.toNat + if s.params.xmFirstExtra then 1 else 0) ∧ s.xmStat.retry.toNat + 1 < 6) ∧
    (let s := cancelling (negotiating (.bkResp [0x5A#8]) [.timeout] 10 []);
      s.ctrl.cancel = true ∧ s.cont = some (.bkResp [0x5A#8]) ∧ s.rxq.length < s.x.x4.toNat ∧ s.turns = .timeout :: [] ∧
      11 = max 1 (10 + if s.params.brFirstExtra then 1 else 0) ∧ s.brStat.attempt.toNat < 11) ∧
    (let s := cancelling (ready 0 0 9600 0xFFFFFF 1 []);
      s.ctrl.cancel = true ∧ s.ctrl.opened = true ∧ fits s.x.x0 s.x.x1.toNat ∧ fits s.x.x3 s.x.x4.toNat ∧ s.x.x2 ≠ 0#32) := by
  decide

/-- A suspended block at each turn, a wait that is met, the last packet of a one-byte transfer, and a poll with the next prefix
behind it. -/
theorem witness_TurnsAtIdleAndAtWaits :
    (∀ e ∈ ([.peer 0x06#8, .timeout] : List Turn), (idle e).cont = none ∧ (idle e).turns = e :: []) ∧
    ({ idle .timeout with turns := [] } : State).cont = none ∧
    (let s := suspended (queued 0 2 0 0 0 [] []) .rxRaw [.peer 0x06#8];
      s.cont = some .rxRaw ∧ s.turns = .peer 0x06#8 :: [] ∧ State.contReady { s with rxq := s.rxq ++ [0x06#8] } .rxRaw = false) ∧
    (let s := suspended (queued 0 2 0 0 0 [] [0x06#8]) .rxRaw [];
      s.cont = some .rxRaw ∧ s.turns = [] ∧ s.contReady .rxRaw = false) ∧
    (∀ c ∈ [.wmSwitch, .xmPacket], let s := suspended (queued 0 0 0 0 0 [] [0x06#8]) c [.timeout, .hold 0];
      s.cont = some c ∧ s.turns = .timeout :: [.hold 0] ∧ s.contReady c = true ∧ holdOf [.hold 0] = some 0) ∧
    (∀ e ∈ ([.peer 0x06#8, .host (.cancel true), .host (.get 0x05)] : List Turn),
      let s := suspended (queued 0 0 0 0 0 [] [0x06#8]) .xmPacket [e, .hold 0];
      s.cont = some .xmPacket ∧ holdOf [.hold 0] = some 0 ∧ s.turns = e :: [.hold 0] ∧ s.contReady .xmPacket = true) ∧
    (∀ n ∈ [0, 1], holdOf (suspended (queued 0 0 0 0 0 [] [0x06#8]) .xmPacket [.hold n]).turns = some n) ∧
    (let s := { queued 0 1 0 0 0 [(0, 0x5A#8)] [0x43#8, 0x06#8] with turns := [.hold 1] };
      s.ctrl.opened = true ∧ s.ctrl.cancel = false ∧ 0 < s.x.x1.toNat ∧ fits s.x.x0 s.x.x1.toNat ∧
      s.pbuf.shows s.x.x0.toNat s.x.x1.toNat [0x5A#8] ∧ s.rxq = 0x43#8 :: [0x06#8] ∧ s.env.writeFails = false ∧
      holdOf s.turns = some 1) ∧
    (let s := { sending .xmPacket (.host (.cancel true)) 1 0 0 [] with rxq := [0x06#8] };
      s.cont = some .xmPacket ∧ s.rxq = 0x06#8 :: [] ∧ s.turns = .host (.cancel true) :: [] ∧ holdOf [] = none ∧
      s.xmK.toNat < (s.xmTotal.toNat + 1023) / 1024) ∧
    (let s := { queued 0 0 0 0 0 [] [0x50#8, 0x44#8, 0x4F#8] with turns := [.hold 1] };
      s.ctrl.opened = true ∧ s.rxq = 0x50#8 :: 0x44#8 :: [0x4F#8] ∧ holdOf s.turns = some 1) := by decide

theorem witness_BrSetRate : (closed 0 0 0 0 0).ctrl.opened = false ∧
    (let s := ready 0 0 0 0 0 []; s.ctrl.opened = true ∧ s.x.x2 = 0#32) ∧
    (let s := ready 0 0 1 0 0 []; s.ctrl.opened = true ∧ s.x.x2 ≠ 0#32 ∧ s.env.rxqs = .keep :: [.keep, .keep]) ∧
    ({ ready 0 0 1 0 0 [] with env := ⟨[], [], [.replace [1#8]], 0⟩ } : State).env.rxqs = .replace [1#8] :: [] := by decide

/-- A command with no bytes and a response of none, and one byte of each. -/
theorem witness_BkFirstAttemptSucceeds :
    (let s := ready 0 0 9600 0x1000000 0 [];
      s.ctrl.opened = true ∧ s.ctrl.cancel = false ∧ fits s.x.x0 s.x.x1.toNat ∧ s.pbuf.shows s.x.x0.toNat s.x.x1.toNat [] ∧
      fits s.x.x3 s.x.x4.toNat ∧ s.x.x2 ≠ 0#32 ∧ s.unheld ∧ s.x.x1 = 0#32 ∧ s.x.x4.toNat ≤ (s.rateSet s.x.x2).rxq.length) ∧
    (let s := queued 0 1 9600 0xFFFFFF 1 [(0, 0x5A#8)] [0x07#8];
      s.ctrl.opened = true ∧ s.ctrl.cancel = false ∧ fits s.x.x0 s.x.x1.toNat ∧
      s.pbuf.shows s.x.x0.toNat s.x.x1.toNat [0x5A#8] ∧ fits s.x.x3 s.x.x4.toNat ∧ s.x.x2 ≠ 0#32 ∧ s.unheld ∧ s.x.x1 ≠ 0#32 ∧
      s.env.writeFails = false ∧ s.x.x4.toNat ≤ (s.wrote.rateSet s.x.x2).rxq.length) := by decide

theorem witness_BkChecks : (closed 0 0 0 0 0).ctrl.opened = false ∧
    (let s := ready 0xFFFFFF 2 0 0 0 []; s.ctrl.opened = true ∧ ¬ fits s.x.x0 s.x.x1.toNat) ∧
    (let s := ready 0xFFFFFF 1 0 0xFFFFFF 2 [];
      s.ctrl.opened = true ∧ fits s.x.x0 s.x.x1.toNat ∧ ¬ fits s.x.x3 s.x.x4.toNat) ∧
    (let s := ready 0xFFFFFF 1 0 0xFFFFFF 1 [];
      s.ctrl.opened = true ∧ fits s.x.x0 s.x.x1.toNat ∧ fits s.x.x3 s.x.x4.toNat ∧ s.x.x2 = 0#32) ∧
    (let s := writeFailing (ready 0xFFFFFF 1 1 0xFFFFFF 1 []);
      s.ctrl.opened = true ∧ fits s.x.x0 s.x.x1.toNat ∧ fits s.x.x3 s.x.x4.toNat ∧ s.x.x2 ≠ 0#32 ∧ s.x.x1 ≠ 0#32 ∧
      s.ctrl.cancel = false ∧ s.env.writeFails = true) := by decide

/-- The tenth attempt of eleven and the eleventh. -/
theorem witness_BkAttemptLoop :
    (let s := negotiating (.bkFlush [0x5A#8]) [] 1 [];
      s.cont = some (.bkFlush [0x5A#8]) ∧ s.turns = [] ∧ (s.rateSet s.brTarget).rxq.length < s.x.x4.toNat) ∧
    (let s := negotiating (.bkFlush [0x5A#8]) [.peer 0x07#8] 1 [];
      s.cont = some (.bkFlush [0x5A#8]) ∧ s.turns = [.peer 0x07#8] ∧
      s.x.x4.toNat ≤ ((grown s 0x07#8).rateSet s.brTarget).rxq.length ∧ fits s.x.x3 s.x.x4.toNat) ∧
    (let s := negotiating (.bkResp [0x5A#8]) [.peer 0x07#8] 1 [];
      s.cont = some (.bkResp [0x5A#8]) ∧ s.turns = [.peer 0x07#8] ∧ s.x.x4.toNat ≤ (grown s 0x07#8).rxq.length ∧
      fits s.x.x3 s.x.x4.toNat) ∧
    (∀ c ∈ [[0x5A#8], []], let s := negotiating (.bkResp c) [.timeout] 10 [];
      let r := State.rateSet { s with turns := [] } 115200#32;
      s.cont = some (.bkResp c) ∧ s.rxq.length < s.x.x4.toNat ∧ s.turns = .timeout :: [] ∧ s.ctrl.cancel = false ∧
      r.env.writeFails = false ∧ holdOf [] = none ∧
      (State.rateSet (if c = [] then r else r.wrote) s.brTarget).rxq.length < s.x.x4.toNat) ∧
    (∀ a ∈ [10#5, 11#5], let s := negotiating (.bkResp [0x5A#8]) [.timeout, .hold 0] a [];
      s.cont = some (.bkResp [0x5A#8]) ∧ s.rxq.length < s.x.x4.toNat ∧ s.turns = .timeout :: [.hold 0] ∧
      11 = max 1 (10 + if s.params.brFirstExtra then 1 else 0) ∧ s.ctrl.cancel = false ∧ (cancelling s).ctrl.cancel = true ∧
      (State.rateSet { s with turns := [.hold 0] } 115200#32).env.writeFails = false ∧
      (State.rateSet { writeFailing s with turns := [.hold 0] } 115200#32).env.writeFails = true ∧
      holdOf [.hold 0] = some 0) ∧
    (10#5).toNat < 11 ∧ 11 ≤ (11#5).toNat ∧ [0x5A#8] ≠ [] := by decide

/-- A ten-byte response frame with status 0, after one byte of noise, stored in the last ten bytes of `PBUF`. -/
theorem witness_EspNegotiates :
    let f : List Byte := [0x01#8, 0x0F#8] ++ le16 (BitVec.ofNat 16 (([] : List Byte).length + 2)) ++ le32 7#32 ++ [] ++ [0#8, 0#8];
    let s := queued 0 0 9600 0xFFFFF6 0 [] ([0x55#8] ++ slipEncode f ++ [0x66#8]);
    s.ctrl.opened = true ∧ s.x.x2 ≠ 0#32 ∧ s.env.writeFails = false ∧ s.unheld ∧ 0xC0#8 ∉ [0x55#8] ∧
    ([] : List Byte).length ≤ 65533 ∧ s.rxq = [0x55#8] ++ slipEncode f ++ [0x66#8] ∧ fits s.x.x3 f.length ∧
    (let w := suspended { s with rxq := [0x55#8] ++ [0xC0#8] ++ slipEscape f } .espResp [.peer 0xC0#8];
      w.cont = some .espResp ∧ w.turns = [.peer 0xC0#8] ∧ (grown w 0xC0#8).rxq = [0x55#8] ++ slipEncode f ++ [] ∧
      fits w.x.x3 f.length) := by decide

theorem witness_EspFaults : (closed 0 0 0 0 0).ctrl.opened = false ∧
    (let s := ready 0 0 0 0 0 []; s.ctrl.opened = true ∧ s.x.x2 = 0#32) ∧
    (let s := writeFailing (ready 0 0 1 0 0 []); s.ctrl.opened = true ∧ s.x.x2 ≠ 0#32 ∧ s.env.writeFails = true) ∧
    (let s := suspended (queued 0 0 1 0 0 [] [0xC0#8]) .espResp [.timeout];
      s.cont = some .espResp ∧ slipScan s.rxq = .incomplete ∧ s.turns = .timeout :: []) ∧
    (∀ st ∈ [0x00#8, 0x01#8],
      let f : List Byte := [0x01#8, 0x0F#8] ++ le16 (BitVec.ofNat 16 (([] : List Byte).length + 2)) ++ le32 7#32 ++ [] ++ [st, 5#8];
      let s := suspended (queued 0 0 1 0xFFFFF7 0 [] ([0xC0#8] ++ slipEscape f)) .espResp [.peer 0xC0#8];
      s.cont = some .espResp ∧ s.turns = [.peer 0xC0#8] ∧ 0xC0#8 ∉ ([] : List Byte) ∧ ([] : List Byte).length ≤ 65533 ∧
      (grown s 0xC0#8).rxq = [] ++ slipEncode f ++ [] ∧ ¬ fits s.x.x3 f.length) ∧
    (let s := suspended (queued 0 0 1 0 0 [] ([0xC0#8] ++ slipEscape [] ++ [0xDB#8])) .espResp [.peer 0xC0#8];
      s.cont = some .espResp ∧ s.turns = [.peer 0xC0#8] ∧ 0xC0#8 ≠ 0xDC#8 ∧ 0xC0#8 ≠ 0xDD#8 ∧
      (grown s 0xC0#8).rxq = [] ++ [0xC0#8] ++ slipEscape [] ++ [0xDB#8, 0xC0#8] ++ []) ∧
    ([] : List Byte).length < 10 ∧
    (∀ h ∈ ([[0x00#8, 0x0F#8, 0x02#8], [0x01#8, 0x0A#8, 0x02#8], [0x01#8, 0x0F#8, 0x03#8]] : List (List Byte)),
      let f : List Byte := h ++ [0#8, 0#8, 0#8, 0#8, 0#8, 0#8, 0#8];
      let s := suspended (queued 0 0 1 0 0 [] ([0xC0#8] ++ slipEscape f)) .espResp [.peer 0xC0#8];
      s.cont = some .espResp ∧ s.turns = [.peer 0xC0#8] ∧ (grown s 0xC0#8).rxq = [] ++ slipEncode f ++ [] ∧ ¬ f.length < 10 ∧
      (f.getD 0 0#8 ≠ 0x01#8 ∨ f.getD 1 0#8 ≠ 0x0F#8 ∨
        (f.getD 2 0#8).toNat + 256 * (f.getD 3 0#8).toNat ≠ f.length - 8)) := by decide

theorem witness_WmNegotiates : (closed 0 0 0 0 0).ctrl.opened = false ∧
    (let s := ready 0 0 0 0 0 []; s.ctrl.opened = true ∧ s.x.x2 = 0#32) ∧
    (let s := ready 0 0 1 0 0 []; s.ctrl.opened = true ∧ s.x.x2 ≠ 0#32 ∧ s.env.writeFails = false ∧ s.unheld ∧
      (writeFailing s).env.writeFails = true) ∧
    (let s := suspended (ready 0 0 1 0 0 []) .wmSwitch [.peer 0x43#8]; s.cont = some .wmSwitch ∧ s.turns = [.peer 0x43#8]) := by
  decide

/-- Every clause of `Transmits`: the largest length of each frame and one more. -/
theorem witness_FrameOpsTransmit : (closed 0 0 0 0 0).ctrl.opened = false ∧
    (let s := ready 0xFFFFFF 2 0 0 0 []; s.ctrl.opened = true ∧ ¬ fits s.x.x0 s.x.x1.toNat) ∧
    (∀ limit ∈ [65535, 65529],
      (let s := ready 0 (BitVec.ofNat 32 (limit + 1)) 0 0 0 [];
        s.ctrl.opened = true ∧ fits s.x.x0 s.x.x1.toNat ∧ limit < s.x.x1.toNat) ∧
      (let s := ready 0 (BitVec.ofNat 32 limit) 0 0 0 [];
        s.ctrl.opened = true ∧ fits s.x.x0 s.x.x1.toNat ∧ s.x.x1.toNat ≤ limit ∧ s.env.writeFails = false ∧
        (writeFailing s).env.writeFails = true)) ∧
    (∀ limit, ∃ m, (ready 0 (BitVec.ofNat 32 limit) 0 0 0 []).pbuf.shows 0 limit m) :=
  ⟨by decide, by decide, by decide, fun _ => shown _ _ _⟩

theorem witness_SlipRoundTrip : 0xC0#8 ∉ [0x55#8] ∧ slipEscape [0xC0#8] = [] ++ 0xDB#8 :: [0xDC#8] ∧
    slipEscape [0xDB#8] = [] ++ 0xDB#8 :: [0xDD#8] := by decide

/-- The frame of one escaped byte at the last address of `PBUF`, and of two there. -/
theorem witness_SlDecReceives : (closed 0 0 0 0 0).ctrl.opened = false ∧
    (∀ x ∈ [[0xC0#8], [0xC0#8, 0x01#8]], let s := queued 0 0 0 0xFFFFFF 0 [] ([0x55#8] ++ slipEncode x ++ [0x66#8]);
      s.ctrl.opened = true ∧ 0xC0#8 ∉ [0x55#8] ∧ (fits s.x.x3 x.length ↔ x = [0xC0#8])) ∧
    (let s := queued 0 0 0 0 0 [] ([] ++ [0xC0#8] ++ slipEscape [] ++ [0xDB#8, 0xC0#8] ++ []);
      s.ctrl.opened = true ∧ 0xC0#8 ≠ 0xDC#8 ∧ 0xC0#8 ≠ 0xDD#8 ∧
      s.rxq = [] ++ [0xC0#8] ++ slipEscape [] ++ [0xDB#8, 0xC0#8] ++ []) ∧
    (let s := queued 0 0 0 0 0 [] [0xC0#8, 0xDB#8]; s.ctrl.opened = true ∧ slipScan s.rxq = .incomplete) ∧
    (let s := suspended (queued 0 0 0 0 0 [] []) .slDec [.timeout];
      s.cont = some .slDec ∧ slipScan s.rxq = .incomplete ∧ s.turns = .timeout :: []) ∧
    (∀ x ∈ [[0xC0#8], [0xC0#8, 0x01#8]],
      let s := suspended (queued 0 0 0 0xFFFFFF 0 [] ([0x55#8, 0xC0#8] ++ slipEscape x)) .slDec [.peer 0xC0#8];
      s.cont = some .slDec ∧ s.turns = [.peer 0xC0#8] ∧ (grown s 0xC0#8).rxq = [0x55#8] ++ slipEncode x ++ [] ∧
      (fits s.x.x3 x.length ↔ x = [0xC0#8])) ∧
    (let s := suspended (queued 0 0 0 0 0 [] [0xC0#8, 0xDB#8]) .slDec [.peer 0xC0#8];
      s.cont = some .slDec ∧ s.turns = [.peer 0xC0#8] ∧
      (grown s 0xC0#8).rxq = [] ++ [0xC0#8] ++ slipEscape [] ++ [0xDB#8, 0xC0#8] ++ []) := by decide

theorem witness_LpDecReceives : (let s := ready 0 0 0 0xFFFFFF 0 [];
      s.ctrl.opened = true ∧ s.unheld ∧ 500 ≤ 500 ∧ [0x5A#8].length ≤ 65535 ∧ fits s.x.x3 [0x5A#8].length) ∧
    (∀ p ∈ ([(.lpPrefix false 499, 0x4F#8, 0x4B#8), (.lpPrefix true 499, 0x4F#8, 0x4B#8), (.lpPrefix true 499, 0x50#8, 0x44#8),
        (.lpLen 500, 0x01#8, 0x00#8), (.lpLen 500, 0x00#8, 0x00#8)] : List (Cont × Byte × Byte)),
      let s := suspended (queued 0 0 0 0xFFFFFF 0 [] [p.2.1]) p.1 [.peer p.2.2];
      s.turns = [.peer p.2.2] ∧ s.cont = some p.1 ∧ (grown s p.2.2).rxq = p.2.1 :: p.2.2 :: [] ∧ 499 < 500 ∧
      fits s.x.x3 ((0x01#8).toNat + 256 * (0x00#8).toNat) ∧ fits s.x.x3 0) ∧
    (let s := suspended (queued 0 0 0 0xFFFFFF 0 [] []) (.lpData 500 1) [.peer 0x5A#8];
      s.cont = some (.lpData 500 1) ∧ s.turns = [.peer 0x5A#8] ∧ 1 ≤ (grown s 0x5A#8).rxq.length ∧ fits s.x.x3 1) := by decide

theorem witness_LpDecFaults : (closed 0 0 0 0 0).ctrl.opened = false ∧
    (let s := ready 0 0 0 0xFFFFFF 0 [];
      s.ctrl.opened = true ∧ s.unheld ∧ [0x46#8, 0x4D#8] ≠ [0x4F#8, 0x4B#8] ∧ [0x46#8, 0x4D#8] ≠ [0x46#8, 0x4C#8] ∧
      [0x46#8, 0x4D#8] ≠ [0x50#8, 0x44#8] ∧ ¬ fits s.x.x3 ((2#8).toNat + 256 * (0#8).toNat)) ∧
    (∀ c ∈ ([.lpPrefix true 0, .lpLen 0, .lpData 0 2] : List Cont),
      let s := suspended (queued 0 0 0 0 0 [] [0x50#8]) c [.timeout];
      s.cont = some c ∧ s.rxq.length < 2 ∧ s.turns = .timeout :: []) ∧
    (∀ p ∈ ([(.lpPrefix true 500, 0x46#8, 0x4C#8), (.lpPrefix true 500, 0x46#8, 0x4D#8), (.lpPrefix false 500, 0x50#8, 0x44#8),
        (.lpLen 500, 0x02#8, 0x00#8)] : List (Cont × Byte × Byte)),
      let s := suspended (queued 0 0 0 0xFFFFFF 0 [] [p.2.1]) p.1 [.peer p.2.2];
      s.turns = [.peer p.2.2] ∧ s.cont = some p.1 ∧ (grown s p.2.2).rxq = p.2.1 :: p.2.2 :: []) := by decide

/-- A range one byte past the end, and the shortest frame. -/
theorem witness_SlRspTakesApart : (let s := ready 0xFFFFFF 2 0 0 0 []; 2 = s.x.x1.toNat ∧ ¬ fits s.x.x0 2) ∧
    (let s := ready 0 10 0 0 0 (at' 0 [0x01#8, 0x0A#8, 0x02#8, 0#8, 0#8, 0#8, 0#8, 0#8, 0#8, 0#8]);
      10 = s.x.x1.toNat ∧ fits s.x.x0 10 ∧
      s.pbuf.shows s.x.x0.toNat 10 [0x01#8, 0x0A#8, 0x02#8, 0#8, 0#8, 0#8, 0#8, 0#8, 0#8, 0#8]) := by decide

theorem witness_SlXsumChecksum : (let s := ready 0xFFFFFF 2 0 0 0 []; ¬ fits s.x.x0 s.x.x1.toNat) ∧
    (let s := ready 0xFFFFFF 1 0 0 0 [(0xFFFFFF, 0x5A#8)];
      fits s.x.x0 s.x.x1.toNat ∧ s.pbuf.shows s.x.x0.toNat s.x.x1.toNat [0x5A#8]) := by decide

theorem witness_W21ChkChecks : (let s := ready 0xFFFFFF 2 0 0 0 []; 2 = s.x.x1.toNat ∧ ¬ fits s.x.x0 2) ∧
    (let s := ready 0 9 0 0 0 (at' 0 [0x21#8, 0x06#8, 0#8, 0x1B#8, 0xE7#8, 0x3C#8, 0#8, 0#8, 0#8]);
      9 = s.x.x1.toNat ∧ fits s.x.x0 9 ∧
      s.pbuf.shows s.x.x0.toNat 9 [0x21#8, 0x06#8, 0#8, 0x1B#8, 0xE7#8, 0x3C#8, 0#8, 0#8, 0#8]) := by decide

/-- The shortest frame, good and with its last byte changed. -/
theorem witness_W21RoundTrip :
    (let s := ready 0 9 0 0 0 (at' 0 (w21Frame 0x3C#32 []));
      ([] : List Byte).length ≤ 65529 ∧ s.x.x1.toNat = ([] : List Byte).length + 9 ∧ fits s.x.x0 s.x.x1.toNat ∧
      s.pbuf.shows s.x.x0.toNat s.x.x1.toNat (w21Frame 0x3C#32 [])) ∧
    (let s := ready 0 9 0 0 0 (at' 0 ((w21Frame 0x3C#32 []).set 8 1#8));
      s.x.x1.toNat = ([] : List Byte).length + 9 ∧ (w21Frame 0x3C#32 []).getD 8 0#8 ≠ 1#8 ∧
      s.pbuf.shows s.x.x0.toNat s.x.x1.toNat ((w21Frame 0x3C#32 []).set 8 1#8)) := by decide +kernel

/-- A step that answers a next state: what `TxOnlyGrows` asks for. -/
theorem witness_TxOnlyGrows : ∃ t, step State.reset = .next t := ⟨_, rfl⟩

/-- Each change of a flag that `ControlFlagOwners` names happens in some step. -/
theorem witness_ControlFlagOwners :
    (let s := { idle (.host (.present 0x0100#16)) with ctrl := ⟨true, false, false, true, false⟩ };
      s.ctrl.cancel = true ∧ s.ctrl.fault = true ∧ s.ctrl.opened = false ∧
      got (step s) (fun t => (t.ctrl.cancel, t.ctrl.fault, t.ctrl.opened)) = some (false, false, true)) ∧
    (let s := idle (.host (.cancel true));
      s.ctrl.cancel = false ∧ got (step s) (fun t => t.ctrl.cancel) = some true) ∧
    (let s := awaitingFrame .timeout;
      s.ctrl.fault = false ∧ s.cont.isSome = true ∧
      got (step s) (fun t => (t.ctrl.fault, t.status, t.ctrl.busy)) = some (true, 0x0E#8, false)) ∧
    (∀ e ∈ ([.host (.stub false), .host (.put 0x02 0#32), .host (.present 0x0100#16)] : List Turn),
      let s := { idle e with ctrl := ⟨false, true, true, false, false⟩ };
      s.ctrl.stub = true ∧ got (step s) (fun t => t.ctrl.stub) = some false) ∧
    (let s := idle (.host (.put 0x02 2#32));
      s.ctrl.stub = false ∧ got (step s) (fun t => t.ctrl.stub) = some true) ∧
    (let s := idle (.host (.present 0x0200#16));
      s.ctrl.opened = true ∧ got (step s) (fun t => t.ctrl.opened) = some false) := by decide +kernel

theorem witness_OperationsEndOneWay :
    (let s := ready 0 0 0 0 0 []; s.ctrl.busy = true ∧ ∃ t, exec .rxDrain s = .next t) ∧
    (let s := suspended (ready 0 0 0 0 0 []) .slDec [.timeout];
      s.ctrl.busy = true ∧ s.cont.isSome = true ∧ ∃ t, step s = .next t) := ⟨⟨by decide, _, rfl⟩, by decide, by decide, _, rfl⟩

/-- A suspended `SL.DEC` that times out. -/
theorem witness_FaultCodesByOperation :
    (∃ t, exec .rxDrain (closed 0 0 0 0 0) = .next t ∧ t.cont = none) ∧
    (let s := awaitingFrame .timeout; s.Inv ∧ s.cont = some .slDec ∧ ∃ t, step s = .next t ∧ t.cont = none) :=
  ⟨⟨_, rfl, rfl⟩, awaitingFrame_inv _, by decide, _, rfl, rfl⟩

theorem witness_RegistersWrittenOnlyBy : (∃ t, exec .ctxClose (ready 0 0 0 0 0 []) = .next t) ∧
    Instr.ctxClose ∉ [.c16Initf, .c16Initx, .c16Updm] ∧ (∀ b, Instr.ctxClose ≠ .c16Updb b) ∧
    (let s := awaitingFrame .timeout; s.Inv ∧ (∃ c, s.cont = some c ∧ Instr.slDec = c.instr) ∧ ∃ t, step s = .next t) :=
  ⟨⟨_, rfl⟩, by decide, nofun, awaitingFrame_inv _, ⟨.slDec, rfl, rfl⟩, _, rfl⟩

theorem witness_CancelReadOnlyAtCheckpoints : Instr.slDec ∉ [.ctxOpen, .xmSend, .brNegBk] ∧
    (let s := awaitingFrame .timeout;
      s.Inv ∧ s.cont = some .slDec ∧ Cont.slDec.instr ∉ [.xmSend, .brNegBk] ∧
      ∀ rest, s.turns ≠ .host (.get 0x02) :: rest ∧ (∀ b, s.turns ≠ .host (.cancel b) :: rest) ∧
        (∀ v, s.turns ≠ .host (.put 0x02 v) :: rest)) :=
  ⟨by decide, awaitingFrame_inv _, rfl, by decide, fun _ => ⟨nofun, nofun, nofun⟩⟩

theorem witness_NoContextFault : (closed 0 0 0 0 0).ctrl.opened = false ∧
    Instr.lpDec 1#8 ∈ [.txRaw, .rxRaw, .rxDrain, .xmSend, .brSet, .brNegBk, .brNegEsp, .brNegWm, .lpEnc 1#8, .lpDec 1#8,
      .slEnc, .slDec, .slCmd 1#8, .w21Enc] := by decide

end Sys2Proof.Tests
end

section
/-! The turns of the other agents at an idle block and at a wait (O60): rules that say once what a passed check, a turn of
another agent and a run bounded by a `hold` give, then the obligation. -/

namespace Sys2Proof.Machine

section Rules

variable (s : State)

/-! ### Checks that are passed, and the two outcomes of a checkpoint and of a write -/

theorem State.inContext_of_opened (go : State → State) (h : s.ctrl.opened = true) : s.inContext go = go s := if_pos h

theorem State.withInput_of_fits (go : List Byte → State) (h : fits s.x.x0 s.x.x1.toNat) :
    s.withInput go = go (s.pbuf.bytes s.x.x0.toNat s.x.x1.toNat) := if_pos (decide_eq_true h)

theorem State.checkpoint_of_not_cancel (abort go : State → State) (h : s.ctrl.cancel = false) :
    s.checkpoint abort go = go s := by
  simp [State.checkpoint, h]

theorem State.checkpoint_of_cancel (abort go : State → State) (h : s.ctrl.cancel = true) :
    s.checkpoint abort go = abort (s.emit (.log .warning .cancelled)) := if_pos h

theorem State.txPut_of_write_passes (b : Byte) (bs : List Byte) (fail ok : State → State) (h : s.env.writeFails = false) :
    s.txPut (b :: bs) fail ok = ok (s.txSent (b :: bs)) := by
  simp [State.txPut, h]

theorem State.rxByte_of_cons (wait : State) (go : State → Byte → State) (b : Byte) (q : List Byte) (h : s.rxq = b :: q) :
    s.rxByte wait go = go (s.rxDrop 1) b := by
  simp [State.rxByte, h]

/-! ### Going on at a wait for one byte (R193, R199) -/

theorem State.resume_xmInit_of_cons (b : Byte) (q : List Byte) (h : s.rxq = b :: q) :
    s.resume .xmInit = (s.rxDrop 1).xmInitByte b := s.rxByte_of_cons _ _ b q h

theorem State.resume_xmPacket_of_cons (b : Byte) (q : List Byte) (h : s.rxq = b :: q) :
    s.resume .xmPacket = (s.rxDrop 1).xmPacketByte b := s.rxByte_of_cons _ _ b q h

/-! ### The head of the XMODEM send loop (R199) -/

theorem State.xmTransmitPacket_of_write_passes (hc : s.ctrl.cancel = false) (hw : s.env.writeFails = false) :
    s.xmTransmitPacket = ((s.xmSetBlk (xmBlk s.xmK.toNat)).txSent
      (xmPacket s.xmPayload s.xmCfg.pad s.xmStat.mode s.xmK.toNat)).suspend .xmPacket := by
  unfold State.xmTransmitPacket
  rw [State.checkpoint_of_not_cancel _ _ _ hc]
  exact State.txPut_of_write_passes _ _ _ _ _ hw

/-- A set cancel flag ends the transfer at the head of the loop, whether a packet or the `EOT` is next (R199, R204, R337). -/
theorem State.xmNext_of_cancel (h : s.ctrl.cancel = true) :
    s.xmNext = State.faulted { s with
      xmStat := { s.xmStat with state := .aborted, retry := 0#8 }
      evt := s.evt ++ [.log .warning .cancelled] } 0x09#8 0#32 := by
  unfold State.xmNext
  split
  · exact State.checkpoint_of_cancel (s.xmSetRetry 0#8) _ _ h
  · exact State.checkpoint_of_cancel ((s.xmSetState .eot).xmSetRetry 0#8) _ _ h

/-! ### When the condition of each wait holds (R338, R351) -/

theorem State.contReady_rxRaw_iff : s.contReady .rxRaw = true ↔ s.x.x1.toNat ≤ s.rxq.length := decide_eq_true_iff

theorem State.contReady_xmodem_iff (c : Cont) (hc : c ∈ [.xmInit, .xmPacket, .xmEot]) :
    s.contReady c = true ↔ s.rxq ≠ [] := by
  simp only [List.mem_cons, List.not_mem_nil, or_false] at hc
  rcases hc with rfl | rfl | rfl <;> simp [State.contReady]

theorem State.contReady_bkResp_iff (cmd : List Byte) :
    s.contReady (.bkResp cmd) = true ↔ s.x.x4.toNat ≤ s.rxq.length := decide_eq_true_iff

theorem State.contReady_slip_iff (c : Cont) (hc : c ∈ [.espResp, .slDec]) :
    s.contReady c = true ↔ slipScan s.rxq ≠ .incomplete := by
  simp only [List.mem_cons, List.not_mem_nil, or_false] at hc
  rcases hc with rfl | rfl <;> exact decide_eq_true_iff

theorem State.contReady_lpPrefix_iff (d : Bool) (k : Nat) :
    s.contReady (.lpPrefix d k) = true ↔ 2 ≤ s.rxq.length := decide_eq_true_iff

theorem State.contReady_lpLen_iff (k : Nat) : s.contReady (.lpLen k) = true ↔ 2 ≤ s.rxq.length := decide_eq_true_iff

theorem State.contReady_lpData_iff (k n : Nat) : s.contReady (.lpData k n) = true ↔ n ≤ s.rxq.length := decide_eq_true_iff

/-! ### A run that the schedule bounds (R25) -/

/-- `hold 0` next: the block rests where it is. -/
theorem State.settle_of_hold_zero (h : holdOf s.turns = some 0) : s.settle = s := s.settle_of_held 0 h

/-- `hold (n + 1)` next: the block passes a point whose condition holds, and at most `n` more. -/
theorem State.settle_of_hold_succ (c : Cont) (n : Nat) (hc : s.cont = some c) (hr : s.contReady c = true)
    (h : holdOf s.turns = some (n + 1)) : s.settle = State.runOn n (s.uncont.resume c) :=
  (s.settle_of_held (n + 1) h).trans (State.runOn_of_contReady n s c hc hr)

/-- `hold 1` next: the block passes one point whose condition holds and rests at the one it then reaches. -/
theorem State.settle_suspend_of_hold_one (c : Cont) (hr : s.contReady c = true) (h : holdOf s.turns = some 1) :
    (s.suspend c).settle = s.uncont.resume c :=
  (s.suspend c).settle_of_hold_succ c 0 rfl ((s.contReady_suspend c c).trans hr) h

/-! ### The turns of the other agents (R18) -/

variable (rest : List Turn)

theorem State.step_of_no_turn (ht : s.turns = []) : step s = .next s.settle := by
  unfold step State.turn
  rw [ht]

theorem State.step_of_hold (n : Nat) (ht : s.turns = .hold n :: rest) : step s = .next { s with turns := rest } := by
  unfold step State.turn
  rw [ht]
  rfl

theorem State.step_of_peer (b : Byte) (ht : s.turns = .peer b :: rest) :
    step s = .next (State.settle { s with turns := rest, rxq := s.rxq ++ [b] }) := by
  unfold step State.turn
  rw [ht]
  rfl

theorem State.step_of_host_cancel (ht : s.turns = .host (.cancel true) :: rest) :
    step s = .next (State.settle { s with
      turns := rest
      reply := .accepted
      ctrl := ⟨true, s.ctrl.stub, s.ctrl.opened, s.ctrl.fault, s.ctrl.busy⟩ }) := by
  unfold step State.turn
  rw [ht]
  rfl

theorem State.step_of_host_get (r : Nat) (ht : s.turns = .host (.get r) :: rest) :
    step s = .next (State.settle { s with turns := rest, reply := .value (s.readReg r) }) := by
  unfold step State.turn
  rw [ht]
  rfl

/-- `Timeout` cannot be raised at an idle block (R338): the turn only leaves the schedule. -/
theorem State.step_of_timeout_idle (hi : s.cont = none) (ht : s.turns = .timeout :: rest) :
    step s = .next { s with turns := rest } := by
  have hraised : (s.setTurns rest).timeoutRaised = s.setTurns rest := by
    unfold State.timeoutRaised
    rw [show (s.setTurns rest).cont = none from hi]
  have hidle : (s.setTurns rest).settle = s.setTurns rest := State.settle_of_idle _ hi
  unfold step State.turn
  rw [ht]
  exact congrArg Host.Outcome.next ((congrArg State.settle hraised).trans hidle)

end Rules

/-! ### Where the block rests -/

/-- The packets of a payload are so few that the counter `XM_K` does not wrap. -/
theorem succ_lt_of_lt_xmPackets (k total : Word) (h : k.toNat < (total.toNat + 1023) / 1024) : k.toNat + 1 < 2 ^ 32 := by
  have := total.isLt
  omega

/-- The initiation byte `C` or `NAK` chooses the mode, and the send loop begins (R193). -/
theorem State.xmInitByte_of_C_or_NAK (s : State) (b : Byte) (hb : b = 0x43#8 ∨ b = 0x15#8) :
    s.xmInitByte b = ((s.xmSetMode (b == 0x43#8)).xmSetState .send).xmNext := by
  rcases hb with rfl | rfl <;> rfl

/-- Packets remain: the head of the send loop transmits the next one and waits for its response (R199). -/
theorem State.xmNext_of_write_passes (s : State) (hk : s.xmK.toNat < xmPackets s.xmTotal.toNat) (hc : s.ctrl.cancel = false)
    (hw : s.env.writeFails = false) :
    s.xmNext = (((s.xmSetRetry 0#8).xmSetBlk (xmBlk s.xmK.toNat)).txSent
      (xmPacket s.xmPayload s.xmCfg.pad s.xmStat.mode s.xmK.toNat)).suspend .xmPacket := by
  unfold State.xmNext
  rw [if_pos hk]
  exact (s.xmSetRetry 0#8).xmTransmitPacket_of_write_passes hc hw

/-- `XM.SEND` with its initiation byte queued, the schedule letting it pass one point, rests after packet 0 (R25, R199). -/
theorem exec_xmSend_of_hold_one (s : State) (p q : List Byte) (b : Byte) (ho : s.ctrl.opened = true)
    (hc : s.ctrl.cancel = false) (hpos : 0 < s.x.x1.toNat) (hfit : fits s.x.x0 s.x.x1.toNat)
    (hp : s.pbuf.shows s.x.x0.toNat s.x.x1.toNat p) (hb : b = 0x43#8 ∨ b = 0x15#8) (hq : s.rxq = b :: q)
    (hw : s.env.writeFails = false) (hh : holdOf s.turns = some 1) :
    exec .xmSend s = .next (State.waiting { s.wrote with
      xmBase := s.x.x0
      xmTotal := s.x.x1
      xmK := 0#32
      xmSent := 0#32
      xmStat := ⟨.send, b == 0x43#8, 1#8, 0#8⟩
      rxq := q
      tx := s.tx ++ xmPacket p s.xmCfg.pad (b == 0x43#8) 0 } .xmPacket) := by
  have hstart : s.xmSendStart = s.xmLatch.suspend .xmInit := by
    unfold State.xmSendStart
    rw [s.inContext_of_opened _ ho, s.withInput_of_fits _ hfit]
  have hready : s.xmLatch.contReady .xmInit = true :=
    (s.xmLatch.contReady_xmodem_iff .xmInit (by simp)).2 (by simp [hq])
  have hpackets : 0 < xmPackets s.x.x1.toNat := by
    simp only [xmPackets, Config.xmBlock]
    omega
  have hpayload : s.pbuf.bytes s.x.x0.toNat s.x.x1.toNat = p := Memory.bytes_of_shows _ _ _ p hp
  obtain rfl : s.rxq.drop 1 = q := by rw [hq]; rfl
  subst hpayload
  refine congrArg Host.Outcome.next ?_
  calc s.xmSendStart.settle
    _ = (s.xmLatch.suspend .xmInit).settle := congrArg State.settle hstart
    _ = s.xmLatch.uncont.resume .xmInit := s.xmLatch.settle_suspend_of_hold_one _ hready hh
    _ = (s.xmLatch.uncont.rxDrop 1).xmInitByte b := State.resume_xmInit_of_cons _ b _ hq
    _ = (((s.xmLatch.uncont.rxDrop 1).xmSetMode (b == 0x43#8)).xmSetState .send).xmNext :=
      State.xmInitByte_of_C_or_NAK _ b hb
    _ = ((((((s.xmLatch.uncont.rxDrop 1).xmSetMode (b == 0x43#8)).xmSetState .send).xmSetRetry 0#8).xmSetBlk 1#8).txSent
          (xmPacket (s.pbuf.bytes s.x.x0.toNat s.x.x1.toNat) s.xmCfg.pad (b == 0x43#8) 0)).suspend .xmPacket :=
      State.xmNext_of_write_passes _ hpackets hc hw
    _ = _ := by
      simp only [State.xmLatch, State.uncont, State.rxDrop, State.xmSetMode, State.xmSetState, State.xmSetRetry,
        State.xmSetBlk, State.txSent, EnvScript.afterWrite, State.suspend, State.wrote, State.waiting]

/-- A packet acknowledged: the counters and the progress event, written out (R199, R203). -/
theorem State.xmProgress_xmAdvance_eq (s : State) (hk : s.xmK.toNat < xmPackets s.xmTotal.toNat) :
    s.xmAdvance.xmProgress = { s with
      xmK := BitVec.ofNat 32 (s.xmK.toNat + 1)
      xmSent := BitVec.ofNat 32 (min ((s.xmK.toNat + 1) * 1024) s.xmTotal.toNat)
      evt := s.evt ++ [.progress (BitVec.ofNat 32 (min ((s.xmK.toNat + 1) * 1024) s.xmTotal.toNat)) s.xmTotal
        (BitVec.ofNat 32 (s.xmK.toNat + 1)) (BitVec.ofNat 32 (s.xmK.toNat * 1024))] } := by
  have hsucc : s.xmK + 1#32 = BitVec.ofNat 32 (s.xmK.toNat + 1) := by simp [BitVec.ofNat_add]
  have hpred : (BitVec.ofNat 32 (s.xmK.toNat + 1)).toNat - 1 = s.xmK.toNat := by
    rw [BitVec.toNat_ofNat, Nat.mod_eq_of_lt (succ_lt_of_lt_xmPackets _ _ hk), Nat.add_sub_cancel]
  simp only [State.xmAdvance, State.xmProgress, State.emit, hsucc, hpred, Config.xmBlock]

/-- An `ACK` taken with the cancel flag set: the packet counts, then the next checkpoint ends the transfer (R199, R337). -/
theorem State.resume_xmPacket_ack_of_cancel (s : State) (q : List Byte) (hq : s.rxq = 0x06#8 :: q)
    (hc : s.ctrl.cancel = true) (hk : s.xmK.toNat < xmPackets s.xmTotal.toNat) :
    s.resume .xmPacket = State.faulted { s with
      rxq := q
      xmK := BitVec.ofNat 32 (s.xmK.toNat + 1)
      xmSent := BitVec.ofNat 32 (min ((s.xmK.toNat + 1) * 1024) s.xmTotal.toNat)
      xmStat := { s.xmStat with state := .aborted, retry := 0#8 }
      evt := s.evt ++ [.progress (BitVec.ofNat 32 (min ((s.xmK.toNat + 1) * 1024) s.xmTotal.toNat)) s.xmTotal
        (BitVec.ofNat 32 (s.xmK.toNat + 1)) (BitVec.ofNat 32 (s.xmK.toNat * 1024)), .log .warning .cancelled] }
      0x09#8 0#32 := by
  have hdrop : s.rxDrop 1 = { s with rxq := q } := by simp [State.rxDrop, hq]
  have hack : (s.rxDrop 1).xmPacketByte 0x06#8 = (s.rxDrop 1).xmAdvance.xmProgress.xmNext := rfl
  rw [s.resume_xmPacket_of_cons _ q hq, hack, State.xmNext_of_cancel (s.rxDrop 1).xmAdvance.xmProgress hc,
    State.xmProgress_xmAdvance_eq (s.rxDrop 1) hk, hdrop]
  simp only [List.append_assoc, List.cons_append, List.nil_append]

/-- A `CANCEL` set while `XM.SEND` rests at a wait whose `ACK` is queued is seen after that `ACK` (R199, R349). -/
theorem State.step_of_cancel_before_ack (s : State) (q : List Byte) (rest : List Turn) (hcont : s.cont = some .xmPacket)
    (hq : s.rxq = 0x06#8 :: q) (ht : s.turns = .host (.cancel true) :: rest) (hh : holdOf rest = none)
    (hk : s.xmK.toNat < xmPackets s.xmTotal.toNat) :
    step s = .next (State.faulted { s with
      turns := rest
      reply := .accepted
      ctrl := ⟨true, s.ctrl.stub, s.ctrl.opened, s.ctrl.fault, s.ctrl.busy⟩
      rxq := q
      xmK := BitVec.ofNat 32 (s.xmK.toNat + 1)
      xmSent := BitVec.ofNat 32 (min ((s.xmK.toNat + 1) * 1024) s.xmTotal.toNat)
      xmStat := { s.xmStat with state := .aborted, retry := 0#8 }
      evt := s.evt ++ [.progress (BitVec.ofNat 32 (min ((s.xmK.toNat + 1) * 1024) s.xmTotal.toNat)) s.xmTotal
        (BitVec.ofNat 32 (s.xmK.toNat + 1)) (BitVec.ofNat 32 (s.xmK.toNat * 1024)), .log .warning .cancelled] }
      0x09#8 0#32) := by
  have hready : s.contReady .xmPacket = true := (s.contReady_xmodem_iff .xmPacket (by simp)).2 (by simp [hq])
  have hmoved : s.agentMoved ((s.setTurns rest).setCancel.replied .accepted) :=
    .inr ⟨rest, hh, .inr (.inr (.inl ⟨ht, rfl⟩))⟩
  rw [s.step_of_agentMoved _ .xmPacket hcont hmoved hready,
    ((s.setTurns rest).setCancel.replied .accepted).uncont.resume_xmPacket_ack_of_cancel q hq rfl hk]
  exact congrArg Host.Outcome.next (State.settle_of_idle _ rfl)

/-- `LP.DEC` with `PD` queued, the schedule letting it pass one point, rests in its delay (R25, R275). -/
theorem exec_lpDec_of_hold_one (s : State) (q : List Byte) (d : Byte) (ho : s.ctrl.opened = true)
    (hq : s.rxq = 0x50#8 :: 0x44#8 :: q) (hh : holdOf s.turns = some 1) :
    exec (.lpDec d) s = .next (State.waiting { s with rxq := q } (.lpPoll (d.getLsbD 0) 1)) := by
  have hstart : s.lpDecStart (d.getLsbD 0) = s.suspend (.lpPrefix (d.getLsbD 0) 0) := s.inContext_of_opened _ ho
  have hready : s.contReady (.lpPrefix (d.getLsbD 0) 0) = true := (s.contReady_lpPrefix_iff _ _).2 (by simp [hq])
  have hpd : s.rxq.take 2 = lpPd := by rw [hq]; rfl
  have hdrop : s.uncont.rxDrop 2 = { s.uncont with rxq := q } := by simp [State.rxDrop, hq]
  refine congrArg Host.Outcome.next ?_
  calc (s.lpDecStart (d.getLsbD 0)).settle
    _ = (s.suspend (.lpPrefix (d.getLsbD 0) 0)).settle := congrArg State.settle hstart
    _ = s.uncont.resume (.lpPrefix (d.getLsbD 0) 0) := s.settle_suspend_of_hold_one _ hready hh
    _ = (s.uncont.rxDrop 2).lpPrefixBytes (d.getLsbD 0) 0 (s.rxq.take 2) := rfl
    _ = (s.uncont.rxDrop 2).suspend (.lpPoll (d.getLsbD 0) 1) := by rw [hpd]; rfl
    _ = _ := by rw [hdrop]; rfl

/-- Settles O60: a rule per turn of another agent and per bounded run, and the three resting points. -/
theorem turnsAtIdleAndAtWaits : Obligations.TurnsAtIdleAndAtWaits := by
  refine ⟨fun s => ⟨s.contReady_rxRaw_iff, s.contReady_xmodem_iff, s.contReady_bkResp_iff, s.contReady_slip_iff,
      s.contReady_lpPrefix_iff, s.contReady_lpLen_iff, s.contReady_lpData_iff, fun _ _ _ => ⟨rfl, rfl, rfl⟩⟩,
    fun s rest hidle => ⟨?peerIdle, s.step_of_timeout_idle rest hidle, ?noTurnIdle⟩,
    fun s c rest hc => ⟨fun b => s.step_of_peer_not_contReady c b rest hc, s.step_of_not_contReady c hc, ?timeoutMet⟩,
    fun s c rest _ hh => ⟨?peerRests, ?cancelRests, ?getRests⟩,
    fun s c n hc hr => ⟨s.settle_of_hold_zero, s.settle_of_hold_succ c n hc hr⟩,
    exec_xmSend_of_hold_one, fun s n rest => s.step_of_hold rest n, State.step_of_cancel_before_ack, exec_lpDec_of_hold_one⟩
  case peerIdle =>
    exact fun b ht => (s.step_of_peer rest b ht).trans (congrArg Host.Outcome.next (State.settle_of_idle _ hidle))
  case noTurnIdle =>
    exact fun ht => (s.step_of_no_turn ht).trans (congrArg Host.Outcome.next (s.settle_of_idle hidle))
  case timeoutMet =>
    intro ht hr
    have hstep := s.step_of_timeout_contReady c rest hc ht hr
    exact ⟨hstep, fun hh => hstep.trans (congrArg Host.Outcome.next (State.settle_of_hold_zero _ hh))⟩
  case peerRests =>
    exact fun b ht => (s.step_of_peer rest b ht).trans (congrArg Host.Outcome.next (State.settle_of_hold_zero _ hh))
  case cancelRests =>
    exact fun ht => (s.step_of_host_cancel rest ht).trans (congrArg Host.Outcome.next (State.settle_of_hold_zero _ hh))
  case getRests =>
    exact fun r ht => (s.step_of_host_get rest r ht).trans (congrArg Host.Outcome.next (State.settle_of_hold_zero _ hh))

end Sys2Proof.Machine
end

section
/-! The state of the machine under every step (O7, O8, O9, O11, O12, O54, O55, O57, O58, O59). What an operation writes and
how it stops is said once, for every operation and every suspension point (`State.Ran`); what a turn of another agent does
before the block goes on is said once (`State.Turned`); the statements and the invariant are derived from these. -/

namespace Sys2Proof.Machine

/-! ### What each operation may write -/

/-- The parts of the state that operations write: the registers by unit, `EVT`, `PBUF`, `TX`, the host's flags of `CTRL` with the
sticky fault bit, and `OPEN`. -/
inductive Part where
  | crc16 | crc32 | md5 | sha | valid | baud | br | xmCfg | xm | evt | pbuf | tx | flags | opened
deriving DecidableEq

/-- The parts that an operation may write besides its results `x[6]` and `x[7]` (R34 to R38, R43, R46, R47, R50, R64, R65). -/
def partsWritten : Instr → List Part
  | .ctxOpen => [.flags, .opened, .baud, .xmCfg, .xm, .br, .evt]
  | .ctxClose => [.opened]
  | .c16Initf | .c16Initx => [.crc16, .valid]
  | .c16Updb _ | .c16Updm => [.crc16]
  | .c32Init => [.crc32, .valid]
  | .c32Updb _ | .c32Updm => [.crc32]
  | .md5Init => [.md5, .valid]
  | .md5Updb _ | .md5Updm => [.md5]
  | .md5Fin => [.md5, .valid, .pbuf]
  | .shaInit => [.sha, .valid]
  | .shaUpdb _ | .shaUpdm => [.sha]
  | .shaFin => [.sha, .valid, .pbuf]
  | .rxRaw | .md5Calc | .shaCalc | .lpDec _ | .slDec => [.pbuf]
  | .xmPad _ | .xmMaxr _ => [.xmCfg]
  | .xmSend => [.xm, .evt, .tx]
  | .brSet => [.baud]
  | .brNegBk => [.baud, .br, .evt, .pbuf, .tx]
  | .brNegEsp => [.baud, .br, .pbuf, .tx]
  | .brNegWm => [.baud, .br, .tx]
  | .txRaw | .lpEnc _ | .slEnc | .slCmd _ | .w21Enc => [.tx]
  | .rxDrain | .c16Rd | .c16Calcf | .c16Calcx | .c32Rd | .c32Calc | .slRsp _ | .slXsum | .w21Chk => []

/-- `t` differs from `s` in the parts `W` at most, as far as the registers, `PBUF`, `EVT` and `TX` go; the argument registers are
as they were (R21), the host's flags are as they were or cleared (R30, R31), and `PBUF` has its canonical form if it had (R60). -/
structure State.Frame (W : List Part) (s t : State) : Prop where
  args : t.x.x0 = s.x.x0 ∧ t.x.x1 = s.x.x1 ∧ t.x.x2 = s.x.x2 ∧ t.x.x3 = s.x.x3 ∧ t.x.x4 = s.x.x4 ∧ t.x.x5 = s.x.x5
  crc16 : .crc16 ∉ W → t.crc16 = s.crc16
  crc32 : .crc32 ∉ W → t.crc32 = s.crc32
  md5 : .md5 ∉ W → t.md5 = s.md5
  sha : .sha ∉ W → t.sha = s.sha
  valid : .valid ∉ W → t.valid = s.valid
  baud : .baud ∉ W → t.baudCur = s.baudCur
  br : .br ∉ W → t.brStat = s.brStat ∧ t.brTarget = s.brTarget
  xmCfg : .xmCfg ∉ W → t.xmCfg = s.xmCfg
  xm : .xm ∉ W → t.xmStat = s.xmStat ∧ t.xmBase = s.xmBase ∧ t.xmTotal = s.xmTotal ∧ t.xmK = s.xmK ∧ t.xmSent = s.xmSent
  evt : .evt ∉ W → t.evt = s.evt
  pbuf : .pbuf ∉ W → t.pbuf = s.pbuf
  tx : .tx ∉ W → t.tx = s.tx
  opened : .opened ∉ W → t.ctrl.opened = s.ctrl.opened
  cancel : t.ctrl.cancel = s.ctrl.cancel ∨ .flags ∈ W ∧ t.ctrl.cancel = false
  stub : t.ctrl.stub = s.ctrl.stub ∨ .flags ∈ W ∧ t.ctrl.stub = false
  memory : s.pbuf.wf → t.pbuf.wf

/-- `t` is a point within an operation that began at `s`, at which results may have been stored: a `Frame`, and the sticky fault
bit is as it was or cleared. -/
structure State.Within (W : List Part) (s t : State) : Prop extends State.Frame W s t where
  fault : t.ctrl.fault = s.ctrl.fault ∨ .flags ∈ W ∧ t.ctrl.fault = false

/-- `t` is a point within an operation that began at `s`, before any result: what the host can see of an end, the operand
registers and `PBUF` are as they were. -/
structure State.Before (W : List Part) (s t : State) : Prop extends State.Within W s t where
  x : t.x = s.x
  status : t.status = s.status
  info : t.info = s.info
  stuck : t.ctrl.fault = s.ctrl.fault
  busy : t.ctrl.busy = s.ctrl.busy
  opcur : t.opcur = s.opcur
  buffer : t.pbuf = s.pbuf

section Updates

variable {W : List Part} {s u : State}

theorem State.Before.refl (W : List Part) (s : State) : s.Before W s where
  args := ⟨rfl, rfl, rfl, rfl, rfl, rfl⟩
  crc16 _ := rfl
  crc32 _ := rfl
  md5 _ := rfl
  sha _ := rfl
  valid _ := rfl
  baud _ := rfl
  br _ := ⟨rfl, rfl⟩
  xmCfg _ := rfl
  xm _ := ⟨rfl, rfl, rfl, rfl, rfl⟩
  evt _ := rfl
  pbuf _ := rfl
  tx _ := rfl
  opened _ := rfl
  cancel := .inl rfl
  stub := .inl rfl
  memory := id
  fault := .inl rfl
  x := rfl
  status := rfl
  info := rfl
  stuck := rfl
  busy := rfl
  opcur := rfl
  buffer := rfl

/-! ### The updates that bring no result -/

theorem State.Before.rxDrop (n : Nat) (h : s.Before W u) : s.Before W (u.rxDrop n) := { h with }

theorem State.Before.uncont (h : s.Before W u) : s.Before W u.uncont := { h with }

theorem State.Before.suspend (k : Cont) (h : s.Before W u) : s.Before W (u.suspend k) := { h with }

theorem State.Before.txFailed (h : s.Before W u) : s.Before W u.txFailed := { h with }

theorem State.Before.txSent (bs : List Byte) (hW : .tx ∈ W) (h : s.Before W u) : s.Before W (u.txSent bs) :=
  { h with tx := fun hn => absurd hW hn }

theorem State.Before.emit (e : Event) (hW : .evt ∈ W) (h : s.Before W u) : s.Before W (u.emit e) :=
  { h with evt := fun hn => absurd hW hn }

theorem State.Before.setBaud (r : Word) (hW : .baud ∈ W) (h : s.Before W u) : s.Before W (u.setBaud r) :=
  { h with baud := fun hn => absurd hW hn }

theorem State.Before.brSetState (v : BrState) (hW : .br ∈ W) (h : s.Before W u) : s.Before W (u.brSetState v) :=
  { h with br := fun hn => absurd hW hn }

theorem State.Before.brSetAttempt (n : BitVec 5) (hW : .br ∈ W) (h : s.Before W u) : s.Before W (u.brSetAttempt n) :=
  { h with br := fun hn => absurd hW hn }

theorem State.Before.brLatch (hW : .br ∈ W) (h : s.Before W u) : s.Before W u.brLatch :=
  { h with br := fun hn => absurd hW hn }

theorem State.Before.xmSetState (v : XmState) (hW : .xm ∈ W) (h : s.Before W u) : s.Before W (u.xmSetState v) :=
  { h with xm := fun hn => absurd hW hn }

theorem State.Before.xmSetMode (m : Bool) (hW : .xm ∈ W) (h : s.Before W u) : s.Before W (u.xmSetMode m) :=
  { h with xm := fun hn => absurd hW hn }

theorem State.Before.xmSetBlk (b : Byte) (hW : .xm ∈ W) (h : s.Before W u) : s.Before W (u.xmSetBlk b) :=
  { h with xm := fun hn => absurd hW hn }

theorem State.Before.xmSetRetry (r : Byte) (hW : .xm ∈ W) (h : s.Before W u) : s.Before W (u.xmSetRetry r) :=
  { h with xm := fun hn => absurd hW hn }

theorem State.Before.xmLatch (hW : .xm ∈ W) (h : s.Before W u) : s.Before W u.xmLatch :=
  { h with xm := fun hn => absurd hW hn }

theorem State.Before.xmAdvance (hW : .xm ∈ W) (h : s.Before W u) : s.Before W u.xmAdvance :=
  { h with xm := fun hn => absurd hW hn }

/-! ### The updates that bring a result -/

theorem State.Within.setX6 (v : Word) (h : s.Within W u) : s.Within W (u.setX6 v) := { h with }

theorem State.Within.setX7 (v : Word) (h : s.Within W u) : s.Within W (u.setX7 v) := { h with }

theorem State.Within.rxClear (h : s.Within W u) : s.Within W u.rxClear := { h with }

theorem State.Within.connectDrawn (h : s.Within W u) : s.Within W u.connectDrawn := { h with }

theorem State.Within.stored (addr : Word) (bs : List Byte) (hfit : addr.toNat + bs.length ≤ Config.pbufBytes)
    (hW : .pbuf ∈ W) (h : s.Within W u) : s.Within W (u.stored addr bs) :=
  { h with
    pbuf := fun hn => absurd hW hn
    memory := fun hm => Memory.wf_storeBytes bs _ _ (h.memory hm) hfit }

theorem State.Within.setBaud (r : Word) (hW : .baud ∈ W) (h : s.Within W u) : s.Within W (u.setBaud r) :=
  { h with baud := fun hn => absurd hW hn }

theorem State.Within.brSetState (v : BrState) (hW : .br ∈ W) (h : s.Within W u) : s.Within W (u.brSetState v) :=
  { h with br := fun hn => absurd hW hn }

theorem State.Within.crc16Init (c : Half) (hW : .crc16 ∈ W) (hV : .valid ∈ W) (h : s.Within W u) :
    s.Within W (u.crc16Init c) :=
  { h with crc16 := fun hn => absurd hW hn, valid := fun hn => absurd hV hn }

theorem State.Within.setCrc16 (c : Half) (hW : .crc16 ∈ W) (h : s.Within W u) : s.Within W (u.setCrc16 c) :=
  { h with crc16 := fun hn => absurd hW hn }

theorem State.Within.crc32Init (c : Word) (hW : .crc32 ∈ W) (hV : .valid ∈ W) (h : s.Within W u) :
    s.Within W (u.crc32Init c) :=
  { h with crc32 := fun hn => absurd hW hn, valid := fun hn => absurd hV hn }

theorem State.Within.setCrc32 (c : Word) (hW : .crc32 ∈ W) (h : s.Within W u) : s.Within W (u.setCrc32 c) :=
  { h with crc32 := fun hn => absurd hW hn }

theorem State.Within.setMd5 (v : Md5Unit) (hW : .md5 ∈ W) (h : s.Within W u) : s.Within W (u.setMd5 v) :=
  { h with md5 := fun hn => absurd hW hn }

theorem State.Within.setVmd5 (b : Bool) (hW : .valid ∈ W) (h : s.Within W u) : s.Within W (u.setVmd5 b) :=
  { h with valid := fun hn => absurd hW hn }

theorem State.Within.freeMd5Buf (hW : .md5 ∈ W) (h : s.Within W u) : s.Within W u.freeMd5Buf :=
  { h with md5 := fun hn => absurd hW hn }

theorem State.Within.setSha (v : ShaUnit) (hW : .sha ∈ W) (h : s.Within W u) : s.Within W (u.setSha v) :=
  { h with sha := fun hn => absurd hW hn }

theorem State.Within.setVsha (b : Bool) (hW : .valid ∈ W) (h : s.Within W u) : s.Within W (u.setVsha b) :=
  { h with valid := fun hn => absurd hW hn }

theorem State.Within.freeShaBuf (hW : .sha ∈ W) (h : s.Within W u) : s.Within W u.freeShaBuf :=
  { h with sha := fun hn => absurd hW hn }

theorem State.Within.xmCfgSet (c : XmCfg) (hW : .xmCfg ∈ W) (h : s.Within W u) : s.Within W { u with xmCfg := c } :=
  { h with xmCfg := fun hn => absurd hW hn }

theorem State.Within.setOpened (b : Bool) (hW : .opened ∈ W) (h : s.Within W u) : s.Within W (u.setOpened b) :=
  { h with opened := fun hn => absurd hW hn }

/-- The reset of the per-operation state by `CTX.OPEN` (R101). -/
theorem State.Within.contextReset (h : s.Within (partsWritten .ctxOpen) u) : s.Within (partsWritten .ctxOpen) u.contextReset :=
  { h with
    baud := fun hn => absurd (by decide) hn
    br := fun hn => absurd (by decide) hn
    xmCfg := fun hn => absurd (by decide) hn
    xm := fun hn => absurd (by decide) hn
    evt := fun hn => absurd (by decide) hn
    opened := fun hn => absurd (by decide) hn
    cancel := .inr ⟨by decide, rfl⟩
    stub := .inr ⟨by decide, rfl⟩
    fault := .inr ⟨by decide, rfl⟩ }

/-! ### The ends -/

theorem State.Frame.complete (h : s.Frame W u) : s.Frame W u.complete := { h with }

theorem State.Frame.raise (c : StatusCode) (info : Word) (h : s.Frame W u) : s.Frame W (u.raise c info) := { h with }

end Updates

/-! ### How an operation stops -/

/-- A code that the block raises (R331). -/
abbrev StatusCode.Raised (c : StatusCode) : Prop := c.code ∈ blockCodes ∧ c.code ≠ 0x00#8

/-- The operation as the block runs it: of the immediate of `LP.DEC` only bit 0 counts (R81). -/
def asRun : Instr → Instr
  | .lpDec imm => .lpDec ((BitVec.ofBool (imm.getLsbD 0)).setWidth 8)
  | i => i

/-- The block has run the operation `i` on from `s` and stops at `t`: the operation is successful, or it has ended with a fault and
no result, or it is suspended before any result (R25, R343). -/
inductive State.Ran (i : Instr) (s : State) : State → Prop
  | completed {u : State} (h : s.Within (partsWritten i) u) : State.Ran i s u.complete
  | raised {u : State} (c : StatusCode) (info : Word) (h : s.Frame (partsWritten i) u) (hx : u.x = s.x) (hc : c.Raised) :
    State.Ran i s (u.raise c info)
  | suspended {u : State} (k : Cont) (h : s.Before (partsWritten i) u) (hk : k.instr = asRun i) :
    State.Ran i s (u.suspend k)

theorem State.Ran.frame {i : Instr} {s t : State} (h : s.Ran i t) : s.Frame (partsWritten i) t := by
  cases h with
  | completed h => exact h.toFrame.complete
  | raised c info h _ _ => exact h.raise c info
  | suspended k h _ => exact (h.suspend k).toFrame

theorem partsWritten_asRun (i : Instr) : partsWritten (asRun i) = partsWritten i := by cases i <;> rfl

theorem asRun_instr (k : Cont) : asRun k.instr = k.instr := by
  cases k with
  | lpPrefix d n | lpPoll d n => cases d <;> rfl
  | _ => rfl

section Pieces

variable {i : Instr} {s u : State}

/-! ### The checks: a check that fails ends the operation with its fault -/

theorem State.Before.raise (c : StatusCode) (info : Word) (h : s.Before (partsWritten i) u) (hc : c.Raised) :
    s.Ran i (u.raise c info) := .raised c info h.toFrame h.x hc

theorem State.Before.complete (h : s.Before (partsWritten i) u) : s.Ran i u.complete := .completed h.toWithin

theorem State.Before.inContext {go : State → State} (h : s.Before (partsWritten i) u) (hgo : s.Ran i (go u)) :
    s.Ran i (u.inContext go) :=
  State.inContext_elim u go (fun _ => hgo) fun _ => h.raise _ _ (by decide)

theorem State.Before.withInput {go : List Byte → State} (h : s.Before (partsWritten i) u)
    (hgo : ∀ m, m.length = u.x.x1.toNat → s.Ran i (go m)) : s.Ran i (u.withInput go) :=
  State.withInput_elim u go (fun _ => hgo _ (Memory.bytes_length ..)) fun _ => h.raise _ _ (by decide)

theorem State.Before.withRange (addr : Word) (n : Nat) {go : State → State} (h : s.Before (partsWritten i) u)
    (hgo : addr.toNat + n ≤ Config.pbufBytes → s.Ran i (go u)) : s.Ran i (u.withRange addr n go) :=
  State.withRange_elim u addr n go hgo fun _ => h.raise _ _ (by decide)

theorem State.Before.withRate {go : State → State} (h : s.Before (partsWritten i) u) (hgo : s.Ran i (go u)) :
    s.Ran i (u.withRate go) :=
  State.withRate_elim u go (fun _ => hgo) fun _ => h.raise _ _ (by decide)

theorem State.Before.withLength (limit : Nat) {go : State → State} (h : s.Before (partsWritten i) u)
    (hgo : s.Ran i (go u)) : s.Ran i (u.withLength limit go) :=
  State.withLength_elim u limit go (fun _ => hgo) fun _ => h.raise _ _ (by decide)

theorem State.Before.withV16 {go : State → State} (h : s.Before (partsWritten i) u) (hgo : s.Ran i (go u)) :
    s.Ran i (u.withV16 go) :=
  State.withV16_elim u go (fun _ => hgo) fun _ => h.raise _ _ (by decide)

theorem State.Before.withV32 {go : State → State} (h : s.Before (partsWritten i) u) (hgo : s.Ran i (go u)) :
    s.Ran i (u.withV32 go) :=
  State.withV32_elim u go (fun _ => hgo) fun _ => h.raise _ _ (by decide)

theorem State.Before.withVmd5 {go : State → State} (h : s.Before (partsWritten i) u) (hgo : s.Ran i (go u)) :
    s.Ran i (u.withVmd5 go) :=
  State.withVmd5_elim u go (fun _ => hgo) fun _ => h.raise _ _ (by decide)

theorem State.Before.withVsha {go : State → State} (h : s.Before (partsWritten i) u) (hgo : s.Ran i (go u)) :
    s.Ran i (u.withVsha go) :=
  State.withVsha_elim u go (fun _ => hgo) fun _ => h.raise _ _ (by decide)

theorem State.Before.withMd5Room (n : Nat) {go : State → State} (h : s.Before (partsWritten i) u) (hgo : s.Ran i (go u)) :
    s.Ran i (u.withMd5Room n go) :=
  State.withMd5Room_elim u n go (fun _ => hgo) fun _ => h.raise _ _ (by decide)

theorem State.Before.withShaRoom (n : Nat) {go : State → State} (h : s.Before (partsWritten i) u) (hgo : s.Ran i (go u)) :
    s.Ran i (u.withShaRoom n go) :=
  State.withShaRoom_elim u n go (fun _ => hgo) fun _ => h.raise _ _ (by decide)

/-! ### Memory, the transport, the checkpoint, the queue -/

theorem State.Before.memWrite (addr : Word) (bs : List Byte) {fail ok : State → State} (hW : .pbuf ∈ partsWritten i)
    (h : s.Before (partsWritten i) u) (hfail : s.Ran i (fail u))
    (hok : ∀ t, s.Within (partsWritten i) t → s.Ran i (ok t)) : s.Ran i (u.memWrite addr bs fail ok) :=
  State.memWrite_elim u addr bs fail ok (fun hfit => hok _ (h.toWithin.stored addr bs hfit hW)) fun _ => hfail

theorem State.Before.txPut (bs : List Byte) {fail ok : State → State} (hW : .tx ∈ partsWritten i)
    (h : s.Before (partsWritten i) u) (hfail : ∀ t, s.Before (partsWritten i) t → s.Ran i (fail t))
    (hok : ∀ t, s.Before (partsWritten i) t → s.Ran i (ok t)) : s.Ran i (u.txPut bs fail ok) :=
  State.txPut_elim u bs fail ok (fun _ => hok _ h) (fun _ _ => hfail _ h.txFailed) fun _ _ => hok _ (h.txSent bs hW)

theorem State.Before.txFinal (bs : List Byte) (hW : .tx ∈ partsWritten i) (h : s.Before (partsWritten i) u) :
    s.Ran i (u.txFinal bs) :=
  h.txPut bs hW (fun _ h => h.raise _ _ (by decide)) fun _ h => h.complete

theorem State.Before.checkpoint {abort go : State → State} (hW : .evt ∈ partsWritten i) (h : s.Before (partsWritten i) u)
    (habort : ∀ t, s.Before (partsWritten i) t → s.Ran i (abort t)) (hgo : s.Ran i (go u)) :
    s.Ran i (u.checkpoint abort go) :=
  State.checkpoint_elim u abort go (fun _ => habort _ (h.emit _ hW)) fun _ => hgo

theorem State.Before.suspendUnless (ready : Bool) (k : Cont) {go : State → State} (hk : k.instr = asRun i)
    (h : s.Before (partsWritten i) u) (hgo : s.Ran i (go u)) : s.Ran i (u.suspendUnless ready k go) :=
  State.suspendUnless_elim u ready k go (fun _ => hgo) fun _ => .suspended k h hk

theorem State.Before.rxByte (k : Cont) {go : State → Byte → State} (hk : k.instr = asRun i)
    (h : s.Before (partsWritten i) u) (hgo : ∀ t b, s.Before (partsWritten i) t → s.Ran i (go t b)) :
    s.Ran i (u.rxByte (u.suspend k) go) :=
  State.rxByte_elim u _ go (fun _ => .suspended k h hk) fun b _ _ => hgo _ b (h.rxDrop 1)

theorem State.Before.slipReceive (k : Cont) {fail : State → StatusCode → Word → State} {frame : State → List Byte → State}
    (hk : k.instr = asRun i) (h : s.Before (partsWritten i) u)
    (hfail : ∀ t info, s.Before (partsWritten i) t → s.Ran i (fail t .protocolFraming info))
    (hframe : ∀ t f, s.Before (partsWritten i) t → s.Ran i (frame t f)) :
    s.Ran i (u.slipReceive (u.suspend k) fail frame) :=
  State.slipReceive_elim u _ fail frame (fun _ => .suspended k h hk) (fun f c _ => hframe _ f (h.rxDrop c))
    fun _ c _ => hfail _ _ (h.rxDrop c)

/-! ### `RX.RAW` (R105) -/

theorem State.Before.rxRawReady (h : s.Before (partsWritten .rxRaw) u) : s.Ran .rxRaw u.rxRawReady :=
  (h.rxDrop _).memWrite _ _ (by decide) ((h.rxDrop _).raise _ _ (by decide)) fun _ h => .completed (h.setX6 _)

theorem State.Before.rxRawStart (h : s.Before (partsWritten .rxRaw) u) : s.Ran .rxRaw u.rxRawStart :=
  h.inContext <| h.withRange _ _ fun _ => h.suspendUnless _ _ rfl h.rxRawReady

/-! ### `XM.SEND` (R193, R198 to R206) -/

section Xmodem

variable (h : s.Before (partsWritten .xmSend) u)
include h

theorem State.Before.xmAbort (c : StatusCode) (info : Word) (hc : c.Raised) : s.Ran .xmSend (u.xmAbort c info) :=
  (h.xmSetState _ (by decide)).raise c info hc

theorem State.Before.xmTransmitPacket : s.Ran .xmSend u.xmTransmitPacket :=
  h.checkpoint (by decide) (fun _ h => h.xmAbort _ _ (by decide)) <|
    (h.xmSetBlk _ (by decide)).txPut _ (by decide) (fun _ h => h.xmAbort _ _ (by decide)) fun _ h => .suspended _ h rfl

theorem State.Before.xmTransmitEot : s.Ran .xmSend u.xmTransmitEot :=
  h.checkpoint (by decide) (fun _ h => h.xmAbort _ _ (by decide)) <|
    h.txPut _ (by decide) (fun _ h => h.xmAbort _ _ (by decide)) fun _ h => .suspended _ h rfl

theorem State.Before.xmNext : s.Ran .xmSend u.xmNext := by
  unfold State.xmNext
  split
  · exact (h.xmSetRetry _ (by decide)).xmTransmitPacket
  · exact ((h.xmSetState _ (by decide)).xmSetRetry _ (by decide)).xmTransmitEot

theorem State.Before.xmRetry {again : State → State} (hagain : ∀ t, s.Before (partsWritten .xmSend) t → s.Ran .xmSend (again t)) :
    s.Ran .xmSend (u.xmRetry again) := by
  unfold State.xmRetry
  split
  · exact h.xmAbort _ _ (by decide)
  · exact hagain _ (h.xmSetRetry _ (by decide))

theorem State.Before.xmSendStart : s.Ran .xmSend u.xmSendStart :=
  h.inContext <| h.withInput fun _ _ => .suspended _ (h.xmLatch (by decide)) rfl

theorem State.Before.xmInitByte (b : Byte) : s.Ran .xmSend (u.xmInitByte b) := by
  unfold State.xmInitByte
  split
  · exact ((h.xmSetMode _ (by decide)).xmSetState _ (by decide)).xmNext
  · split
    · exact ((h.xmSetMode _ (by decide)).xmSetState _ (by decide)).xmNext
    · exact h.xmAbort _ _ (by decide)

theorem State.Before.xmPacketByte (b : Byte) : s.Ran .xmSend (u.xmPacketByte b) := by
  unfold State.xmPacketByte
  split
  · exact ((h.xmAdvance (by decide)).emit _ (by decide)).xmNext
  · split
    · exact h.xmAbort _ _ (by decide)
    · exact h.xmRetry fun _ h => h.xmTransmitPacket

theorem State.Before.xmEotResponse (b : Byte) : s.Ran .xmSend (u.xmEotResponse b) := by
  unfold State.xmEotResponse
  split
  · exact .completed (((h.xmSetState _ (by decide)).setX6 _).setX7 _)
  · split
    · exact h.xmAbort _ _ (by decide)
    · exact h.xmRetry fun _ h => h.xmTransmitEot

end Xmodem

/-! ### Baud-rate negotiation (R237 to R246) -/

theorem State.Before.brFail (c : StatusCode) (info : Word) (hW : .br ∈ partsWritten i) (hc : c.Raised)
    (h : s.Before (partsWritten i) u) : s.Ran i (u.brFail c info) :=
  (h.brSetState _ hW).raise c info hc

/-- Every fault that the checks of an ESP response give is one of the block's (R289). -/
theorem espResponse_bad_raised {f : List Byte} {op : Byte} {c : StatusCode} {info : Word}
    (h : espResponse f op = .bad c info) : c.Raised := by
  unfold espResponse at h
  have hframing : StatusCode.protocolFraming.Raised := by decide
  have hstatus : StatusCode.protocolStatus.Raised := by decide
  split at h
  · cases h; exact hframing
  split at h
  · cases h; exact hframing
  split at h
  · cases h; exact hframing
  split at h
  · cases h; exact hframing
  split at h
  · cases h; exact hstatus
  · cases h

section Bk

variable (h : s.Before (partsWritten .brNegBk) u)
include h

theorem State.Before.bkAttempt (cmd : List Byte) : s.Ran .brNegBk (u.bkAttempt cmd) :=
  h.checkpoint (by decide) (fun _ h => h.brFail _ _ (by decide) (by decide)) <|
    (h.brSetAttempt _ (by decide)).txPut _ (by decide) (fun _ h => h.brFail _ _ (by decide) (by decide)) fun _ h =>
      .suspended _ (h.brSetState _ (by decide)) rfl

theorem State.Before.bkStart : s.Ran .brNegBk u.bkStart :=
  h.inContext <| h.withInput fun cmd _ => h.withRange _ _ fun _ => h.withRate <| (h.brLatch (by decide)).bkAttempt cmd

theorem State.Before.bkRespReady : s.Ran .brNegBk u.bkRespReady :=
  (h.rxDrop _).memWrite _ _ (by decide) ((h.rxDrop _).brFail _ _ (by decide) (by decide)) fun _ h =>
    .completed ((h.brSetState _ (by decide)).setX6 _)

theorem State.Before.bkFlushed (cmd : List Byte) : s.Ran .brNegBk (u.bkFlushed cmd) :=
  have h := (h.setBaud u.brTarget (by decide)).brSetState .switched (by decide)
  h.suspendUnless _ _ rfl h.bkRespReady

theorem State.Before.bkRespTimeout (cmd : List Byte) : s.Ran .brNegBk (u.bkRespTimeout cmd) := by
  have h := (h.setBaud Config.baudSafe (by decide)).brSetState .reverted (by decide)
  unfold State.bkRespTimeout
  dsimp only
  split
  · exact h.brFail _ _ (by decide) (by decide)
  · exact h.bkAttempt cmd

end Bk

theorem State.Before.espStart (h : s.Before (partsWritten .brNegEsp) u) : s.Ran .brNegEsp u.espStart :=
  h.inContext <| h.withRate <| ((h.brLatch (by decide)).brSetAttempt _ (by decide)).txPut _ (by decide)
    (fun _ h => h.brFail _ _ (by decide) (by decide)) fun _ h => .suspended _ (h.brSetState _ (by decide)) rfl

theorem State.Before.espFrame (f : List Byte) (h : s.Before (partsWritten .brNegEsp) u) :
    s.Ran .brNegEsp (u.espFrame f) := by
  unfold State.espFrame
  split
  · exact h.brFail _ _ (by decide) (espResponse_bad_raised ‹_›)
  · exact h.memWrite _ _ (by decide) (h.brFail _ _ (by decide) (by decide)) fun _ h =>
      .completed ((((h.setBaud _ (by decide)).brSetState _ (by decide)).setX6 _).setX7 _)

theorem State.Before.espReady (h : s.Before (partsWritten .brNegEsp) u) : s.Ran .brNegEsp u.espReady :=
  h.slipReceive _ rfl (fun _ _ h => h.brFail _ _ (by decide) (by decide)) fun _ f h => h.espFrame f

theorem State.Before.wmStart (h : s.Before (partsWritten .brNegWm) u) : s.Ran .brNegWm u.wmStart :=
  h.inContext <| h.withRate <| ((h.brLatch (by decide)).brSetAttempt _ (by decide)).txPut _ (by decide)
    (fun _ h => h.brFail _ _ (by decide) (by decide)) fun _ h => .suspended _ (h.brSetState _ (by decide)) rfl

theorem State.Before.wmSwitched (h : s.Before (partsWritten .brNegWm) u) : s.Ran .brNegWm u.wmSwitched :=
  ((h.setBaud _ (by decide)).brSetState _ (by decide)).complete

/-! ### `LP.DEC` (R275 to R278) and `SL.DEC` (R284) -/

section LpDec

variable {d : Bool} {imm : Byte}

theorem State.Before.lpDecStart (hd : imm.getLsbD 0 = d) (h : s.Before (partsWritten (.lpDec imm)) u) :
    s.Ran (.lpDec imm) (u.lpDecStart d) :=
  h.inContext <| .suspended _ h (by subst hd; rfl)

theorem State.Before.lpDataReady (polls n : Nat) (h : s.Before (partsWritten (.lpDec imm)) u) :
    s.Ran (.lpDec imm) (u.lpDataReady polls n) :=
  (h.rxDrop n).memWrite _ _ (by simp [partsWritten]) ((h.rxDrop n).raise _ _ (by decide)) fun _ h =>
    .completed ((h.setX6 _).setX7 _)

theorem State.Before.lpLenReady (polls : Nat) (h : s.Before (partsWritten (.lpDec 1#8)) u) :
    s.Ran (.lpDec 1#8) (u.lpLenReady polls) :=
  (h.rxDrop 2).withRange _ _ fun _ => (h.rxDrop 2).suspendUnless _ _ rfl ((h.rxDrop 2).lpDataReady polls 0)

theorem State.Before.lpPrefixReady (polls : Nat) (h : s.Before (partsWritten (.lpDec imm)) u)
    (hd : Cont.instr (.lpPrefix d 0) = asRun (.lpDec imm)) : s.Ran (.lpDec imm) (u.lpPrefixReady d polls) := by
  unfold State.lpPrefixReady State.lpPrefixBytes
  have h := h.rxDrop 2
  split
  · split
    · next htrue => exact .suspended _ h (by subst htrue; exact hd)
    · exact .completed ((h.setX6 _).setX7 _)
  split
  · exact h.raise _ _ (by decide)
  split
  · split
    · exact h.raise _ _ (by decide)
    · exact .suspended _ h hd
  · exact h.raise _ _ (by decide)

end LpDec

theorem State.Before.slDecReady (h : s.Before (partsWritten .slDec) u) : s.Ran .slDec u.slDecReady :=
  h.slipReceive _ rfl (fun _ _ h => h.raise _ _ (by decide)) fun _ f h =>
    h.memWrite _ f (by decide) (h.raise _ _ (by decide)) fun _ h => .completed (h.setX6 _)

theorem State.Before.slDecStart (h : s.Before (partsWritten .slDec) u) : s.Ran .slDec u.slDecStart :=
  h.inContext <| h.suspendUnless _ _ rfl h.slDecReady

end Pieces

/-! ### Every operation, and every suspension point -/

/-- The block goes on from a suspension point, and stops (R25). -/
theorem State.Before.resume {s u : State} (k : Cont) (h : s.Before (partsWritten k.instr) u) :
    s.Ran k.instr (u.resume k) := by
  cases k with
  | rxRaw => exact h.rxRawReady
  | xmInit => exact h.rxByte _ rfl fun _ b h => h.xmInitByte b
  | xmPacket => exact h.rxByte _ rfl fun _ b h => h.xmPacketByte b
  | xmEot => exact h.rxByte _ rfl fun _ b h => h.xmEotResponse b
  | bkFlush cmd => exact h.bkFlushed cmd
  | bkResp cmd => exact h.bkRespReady
  | espResp => exact h.espReady
  | wmSwitch => exact h.wmSwitched
  | lpPrefix d polls => exact h.lpPrefixReady polls (asRun_instr (.lpPrefix d 0)).symm
  | lpPoll d polls => exact .suspended _ h (asRun_instr (.lpPoll d 0)).symm
  | lpLen polls => exact h.lpLenReady polls
  | lpData polls n => exact h.lpDataReady polls n
  | slDec => exact h.slDecReady

/-- A wait ends by `Timeout`, and the block stops (R338). -/
theorem State.Before.expire {s u : State} (k : Cont) (h : s.Before (partsWritten k.instr) u) :
    s.Ran k.instr (u.expire k) := by
  cases k with
  | xmInit => exact h.xmAbort _ _ (by decide)
  | xmPacket => exact h.xmRetry fun _ h => h.xmTransmitPacket
  | xmEot => exact h.xmRetry fun _ h => h.xmTransmitEot
  | bkFlush cmd => exact .suspended _ h rfl
  | bkResp cmd => exact h.bkRespTimeout cmd
  | espResp => exact h.brFail _ _ (by decide) (by decide)
  | wmSwitch => exact .suspended _ h rfl
  | lpPoll d polls => exact .suspended _ h (asRun_instr (.lpPoll d 0)).symm
  | rxRaw | lpPrefix _ _ | lpLen _ | lpData _ _ | slDec => exact h.raise _ _ (by decide)

/-- What the block has run of an operation, extended by one more suspension point. -/
theorem State.Ran.goOn {i : Instr} {s t : State} (h : s.Ran i t) (hg : t.canGo = true) : s.Ran i t.goOn := by
  cases h with
  | completed _ => cases hg
  | raised _ _ _ _ _ => cases hg
  | @suspended u k hu hk =>
    have hw : partsWritten k.instr = partsWritten i := by rw [hk, partsWritten_asRun]
    have hran : s.Ran k.instr (u.suspend k).goOn := State.Before.resume k (hw ▸ (hu.suspend k).uncont)
    generalize (u.suspend k).goOn = t at hran
    have hkk := asRun_instr k
    cases hran with
    | completed h => exact .completed (hw ▸ h)
    | raised c info h hx hc => exact .raised c info (hw ▸ h) hx hc
    | suspended k' h hk' => exact .suspended k' (hw ▸ h) (hk'.trans (hkk.trans hk))

/-- What the block has run of an operation, extended by its own run (R25). -/
theorem State.Ran.settle {i : Instr} {s t : State} (h : s.Ran i t) : s.Ran i t.settle :=
  State.settle_induct (P := s.Ran i) (fun _ hg h => h.goOn hg) t h

/-- The block's own run leaves a state alone, or runs its suspended operation on. -/
theorem State.settle_eq_or_ran (u : State) : u.settle = u ∨ ∃ c, u.cont = some c ∧ u.Ran c.instr u.settle := by
  refine State.settle_induct (P := fun t => t = u ∨ ∃ c, u.cont = some c ∧ u.Ran c.instr t) (fun t hg h => ?_) u (.inl rfl)
  rcases h with rfl | ⟨c, hc, hran⟩
  · cases hc : t.cont with
    | none => simp [State.canGo, hc] at hg
    | some c =>
      rw [t.goOn_of_cont c hc]
      exact .inr ⟨c, rfl, ((State.Before.refl _ t).uncont).resume c⟩
  · exact .inr ⟨c, hc, hran.goOn hg⟩

/-- The meaning of every operation is a next state, in which the operation has ended or is suspended. -/
theorem exec_ran (i : Instr) (s : State) : ∃ t, exec i s = .next t ∧ s.Ran i t := by
  have h : s.Before (partsWritten i) s := .refl _ s
  cases i with
  | ctxOpen =>
    have hreset := h.toWithin.contextReset.connectDrawn
    refine ⟨_, rfl, ?_⟩
    split
    · exact .raised _ _ hreset.toFrame rfl (by decide)
    · exact .completed (hreset.setOpened true (by decide))
  | ctxClose => exact ⟨_, rfl, .completed (h.toWithin.setOpened false (by decide)).rxClear⟩
  | rxDrain => exact ⟨_, rfl, h.inContext (.completed (h.toWithin.setX6 _).rxClear)⟩
  | txRaw => exact ⟨_, rfl, h.inContext <| h.withInput fun m _ => h.txFinal m (by decide)⟩
  | rxRaw => exact ⟨_, rfl, h.rxRawStart⟩
  | c16Initf | c16Initx => exact ⟨_, rfl, .completed (h.toWithin.crc16Init _ (by decide) (by decide))⟩
  | c16Updb b => exact ⟨_, rfl, h.withV16 <| .completed (h.toWithin.setCrc16 _ (by simp [partsWritten]))⟩
  | c16Updm => exact ⟨_, rfl, h.withV16 <| h.withInput fun _ _ => .completed (h.toWithin.setCrc16 _ (by decide))⟩
  | c16Rd => exact ⟨_, rfl, h.withV16 <| .completed (h.toWithin.setX6 _)⟩
  | c16Calcf | c16Calcx | c32Calc | slXsum => exact ⟨_, rfl, h.withInput fun _ _ => .completed (h.toWithin.setX6 _)⟩
  | c32Init => exact ⟨_, rfl, .completed (h.toWithin.crc32Init _ (by decide) (by decide))⟩
  | c32Updb b => exact ⟨_, rfl, h.withV32 <| .completed (h.toWithin.setCrc32 _ (by simp [partsWritten]))⟩
  | c32Updm => exact ⟨_, rfl, h.withV32 <| h.withInput fun _ _ => .completed (h.toWithin.setCrc32 _ (by decide))⟩
  | c32Rd => exact ⟨_, rfl, h.withV32 <| .completed (h.toWithin.setX6 _)⟩
  | md5Init => exact ⟨_, rfl, .completed ((h.toWithin.setMd5 _ (by decide)).setVmd5 _ (by decide))⟩
  | md5Updb b =>
    exact ⟨_, rfl, h.withVmd5 <| h.withMd5Room 1 <| .completed (h.toWithin.setMd5 _ (by simp [partsWritten]))⟩
  | md5Updm =>
    exact ⟨_, rfl, h.withVmd5 <| h.withInput fun _ _ => h.withMd5Room _ <| .completed (h.toWithin.setMd5 _ (by decide))⟩
  | md5Fin =>
    exact ⟨_, rfl, h.withVmd5 <| h.withRange _ _ fun hfit => .completed <|
      (((h.toWithin.setMd5 _ (by decide)).stored _ _ hfit (by decide)).setVmd5 _ (by decide)).freeMd5Buf (by decide)⟩
  | md5Calc =>
    exact ⟨_, rfl, h.withInput fun _ _ => h.withRange _ _ fun hfit => .completed (h.toWithin.stored _ _ hfit (by decide))⟩
  | shaInit => exact ⟨_, rfl, .completed ((h.toWithin.setSha _ (by decide)).setVsha _ (by decide))⟩
  | shaUpdb b =>
    exact ⟨_, rfl, h.withVsha <| h.withShaRoom 1 <| .completed (h.toWithin.setSha _ (by simp [partsWritten]))⟩
  | shaUpdm =>
    exact ⟨_, rfl, h.withVsha <| h.withInput fun _ _ => h.withShaRoom _ <| .completed (h.toWithin.setSha _ (by decide))⟩
  | shaFin =>
    exact ⟨_, rfl, h.withVsha <| h.withRange _ _ fun hfit => .completed <|
      (((h.toWithin.setSha _ (by decide)).stored _ _ hfit (by decide)).setVsha _ (by decide)).freeShaBuf (by decide)⟩
  | shaCalc =>
    exact ⟨_, rfl, h.withInput fun _ _ => h.withRange _ _ fun hfit => .completed (h.toWithin.stored _ _ hfit (by decide))⟩
  | xmPad b | xmMaxr b => exact ⟨_, rfl, .completed (h.toWithin.xmCfgSet _ (by simp [partsWritten]))⟩
  | xmSend => exact ⟨_, rfl, h.xmSendStart.settle⟩
  | brSet => exact ⟨_, rfl, h.inContext <| h.withRate (h.setBaud _ (by decide)).complete⟩
  | brNegBk => exact ⟨_, rfl, h.bkStart.settle⟩
  | brNegEsp => exact ⟨_, rfl, h.espStart.settle⟩
  | brNegWm => exact ⟨_, rfl, h.wmStart.settle⟩
  | lpEnc b =>
    exact ⟨_, rfl, h.inContext <| h.withInput fun _ _ => h.withLength _ <| h.txFinal _ (by simp [partsWritten])⟩
  | lpDec b => exact ⟨_, rfl, (h.lpDecStart rfl).settle⟩
  | slEnc => exact ⟨_, rfl, h.inContext <| h.withInput fun _ _ => h.txFinal _ (by decide)⟩
  | slDec => exact ⟨_, rfl, h.slDecStart⟩
  | slCmd b =>
    exact ⟨_, rfl, h.inContext <| h.withInput fun _ _ => h.withLength _ <| h.txFinal _ (by simp [partsWritten])⟩
  | slRsp b =>
    refine ⟨_, rfl, h.withInput fun f _ => ?_⟩
    split
    · exact h.raise _ _ (espResponse_bad_raised ‹_›)
    · exact .completed ((h.toWithin.setX6 _).setX7 _)
  | w21Enc => exact ⟨_, rfl, h.inContext <| h.withInput fun _ _ => h.withLength _ <| h.txFinal _ (by decide)⟩
  | w21Chk =>
    refine ⟨_, rfl, h.withInput fun f _ => ?_⟩
    split
    · exact h.raise _ _ (by decide)
    · exact .completed ((h.toWithin.setX6 _).setX7 _)

theorem ran_of_exec {i : Instr} {s t : State} (h : exec i s = .next t) : s.Ran i t := by
  obtain ⟨u, hu, hran⟩ := exec_ran i s
  obtain rfl : u = t := Host.Outcome.next.inj (hu.symm.trans h)
  exact hran

/-! ### The host port, action by action (R29, R87, R376) -/

section HostPort

variable (s : State) (rest : List Turn)

theorem State.whileIdle_of_busy (go : State → State) (hb : s.ctrl.busy = true) : s.whileIdle go = s.replied .refused :=
  if_pos hb

theorem State.whileIdle_of_idle (go : State → State) (hb : s.ctrl.busy = false) :
    s.whileIdle go = go (s.replied .accepted) := by
  simp [State.whileIdle, hb]

theorem State.hostAct_poke_of_busy (addr : Nat) (bs : List Byte) (hb : s.ctrl.busy = true) :
    s.hostAct (.poke addr bs) = .next (s.replied .refused) := by
  simp [State.hostAct, State.whileIdle, hb]

theorem State.hostAct_peek_of_busy (addr n : Nat) (hb : s.ctrl.busy = true) :
    s.hostAct (.peek addr n) = .next (s.replied .refused) := by
  simp [State.hostAct, State.whileIdle, hb]

theorem State.hostAct_poke_of_idle (addr : Nat) (bs : List Byte) (hb : s.ctrl.busy = false)
    (hfit : addr + bs.length ≤ Config.pbufBytes) :
    s.hostAct (.poke addr bs) = .next ((s.replied .accepted).poked addr bs) := by
  simp [State.hostAct, State.whileIdle, hb, hfit]

theorem State.hostAct_peek_of_idle (addr n : Nat) (hb : s.ctrl.busy = false) (hfit : addr + n ≤ Config.pbufBytes) :
    s.hostAct (.peek addr n) = .next (s.replied (.bytes (s.pbuf.bytes addr n))) := by
  simp only [State.hostAct, hb, Bool.not_false, Bool.true_and, Nat.not_lt.2 hfit, decide_false, Bool.false_eq_true, if_false,
    s.whileIdle_of_idle _ hb]
  rfl

theorem State.hostAct_poke_past_end (addr : Nat) (bs : List Byte) (hb : s.ctrl.busy = false)
    (hpast : Config.pbufBytes < addr + bs.length) : s.hostAct (.poke addr bs) = .fault (.hostAddress addr) := by
  simp [State.hostAct, hb, hpast]

theorem State.hostAct_peek_past_end (addr n : Nat) (hb : s.ctrl.busy = false) (hpast : Config.pbufBytes < addr + n) :
    s.hostAct (.peek addr n) = .fault (.hostAddress addr) := by
  simp [State.hostAct, hb, hpast]

/-- A write of `CTRL` while busy: a 1 in bit 0 sets `CANCEL`, every other write is refused. -/
theorem State.putReg_ctrl_of_busy (v : Word) (hb : s.ctrl.busy = true) :
    s.putReg 0x02 v = if v.getLsbD 0 then s.setCancel.replied .accepted else s.replied .refused := by
  unfold State.putReg
  cases v.getLsbD 0 <;> simp [hb]

/-- A write of `CTRL` while idle acts on `CANCEL` and on `STUB`. -/
theorem State.putReg_ctrl_of_idle (v : Word) (hb : s.ctrl.busy = false) :
    s.putReg 0x02 v = { s with
      reply := .accepted
      ctrl := ⟨s.ctrl.cancel || v.getLsbD 0, v.getLsbD 1, s.ctrl.opened, s.ctrl.fault, s.ctrl.busy⟩ } := by
  unfold State.putReg
  cases v.getLsbD 0 <;> simp [hb, State.setStub, State.replied, State.setCancel]

theorem State.putReg_of_ne_ctrl (r : Nat) (v : Word) (hr : r ≠ 0x02) : s.putReg r v = s.whileIdle id := if_neg hr

theorem State.hostAct_ne_refused (a : HostAction) (r : Refusal) (ha : ∀ w, a ≠ .present w) : s.hostAct a ≠ .refused r := by
  cases a with
  | present w => exact absurd rfl (ha w)
  | poke _ _ | peek _ _ => simp only [State.hostAct]; split <;> simp
  | setX _ _ | getX _ | get _ | cancel _ | stub _ | put _ _ => simp [State.hostAct]

/-! ### A step on the host's turn -/

theorem State.step_of_host (a : HostAction) (u : State) (ht : s.turns = .host a :: rest) (ha : ∀ w, a ≠ .present w)
    (hu : (s.setTurns rest).hostAct a = .next u) : step s = .next u.settle := by
  unfold step State.turn
  rw [ht]
  cases a with
  | present w => exact absurd rfl (ha w)
  | _ => simp only [hu]

theorem State.step_of_host_fault (a : HostAction) (f : Fault) (ht : s.turns = .host a :: rest) (ha : ∀ w, a ≠ .present w)
    (hf : (s.setTurns rest).hostAct a = .fault f) : step s = .fault f := by
  unfold step State.turn
  rw [ht]
  cases a with
  | present w => exact absurd rfl (ha w)
  | _ => simp only [hf]

theorem State.step_of_present (w : Half) (ht : s.turns = .host (.present w) :: rest) :
    step s = (s.setTurns rest).present w := by
  unfold step State.turn
  rw [ht]

/-- A word presented to a busy block is refused, and the block goes on (R375). -/
theorem State.step_of_present_busy (w : Half) (ht : s.turns = .host (.present w) :: rest) (hb : s.ctrl.busy = true) :
    step s = .next ((s.setTurns rest).replied .refused).settle :=
  (s.step_of_present rest w ht).trans (if_pos hb)

end HostPort

/-! ### What the turns of the other agents do before the block goes on (R18) -/

/-- `u` is `s` once its next turn is taken, before the block goes on; a word presented to an idle block is not such a turn. -/
inductive State.Turned (s : State) : State → Prop
  | noTurn (ht : s.turns = []) : State.Turned s s
  | hold (n : Nat) (rest : List Turn) (ht : s.turns = .hold n :: rest) : State.Turned s (s.setTurns rest)
  | timeout (rest : List Turn) (ht : s.turns = .timeout :: rest) : State.Turned s (s.setTurns rest)
  | peer (b : Byte) (rest : List Turn) (ht : s.turns = .peer b :: rest) : State.Turned s ((s.setTurns rest).rxPut b)
  | answered (a : HostAction) (rest : List Turn) (r : HostReply) (ht : s.turns = .host a :: rest) :
    State.Turned s ((s.setTurns rest).replied r)
  | cancelled (a : HostAction) (rest : List Turn) (ht : s.turns = .host a :: rest)
    (ha : a = .cancel true ∨ ∃ v, v.getLsbD 0 = true ∧ a = .put 0x02 v) :
    State.Turned s ((s.setTurns rest).setCancel.replied .accepted)
  | wroteX (i : Fin 8) (v : Word) (rest : List Turn) (ht : s.turns = .host (.setX i v) :: rest) (hb : s.ctrl.busy = false) :
    State.Turned s (((s.setTurns rest).replied .accepted).setX i v)
  | poked (addr : Nat) (bs : List Byte) (rest : List Turn) (ht : s.turns = .host (.poke addr bs) :: rest)
    (hb : s.ctrl.busy = false) (hfit : addr + bs.length ≤ Config.pbufBytes) :
    State.Turned s (((s.setTurns rest).replied .accepted).poked addr bs)
  | wroteStub (b : Bool) (rest : List Turn) (ht : s.turns = .host (.stub b) :: rest) (hb : s.ctrl.busy = false) :
    State.Turned s (((s.setTurns rest).replied .accepted).setStub b)
  | wroteCtrl (v : Word) (rest : List Turn) (ht : s.turns = .host (.put 0x02 v) :: rest) (hb : s.ctrl.busy = false) :
    State.Turned s { s.setTurns rest with
      reply := .accepted
      ctrl := ⟨s.ctrl.cancel || v.getLsbD 0, v.getLsbD 1, s.ctrl.opened, s.ctrl.fault, s.ctrl.busy⟩ }

/-- What the host's action other than presenting a word does is one of the turns above. -/
theorem State.turned_of_hostAct (s u : State) (a : HostAction) (rest : List Turn) (ht : s.turns = .host a :: rest)
    (ha : ∀ w, a ≠ .present w) (hu : (s.setTurns rest).hostAct a = .next u) : s.Turned u := by
  have idleOnly : ∀ go : State → State, (s.ctrl.busy = false → s.Turned (go ((s.setTurns rest).replied .accepted))) →
      s.Turned ((s.setTurns rest).whileIdle go) := by
    intro go hgo
    cases hb : s.ctrl.busy with
    | true => rw [(s.setTurns rest).whileIdle_of_busy go hb]; exact .answered a rest _ ht
    | false => rw [(s.setTurns rest).whileIdle_of_idle go hb]; exact hgo hb
  cases a with
  | present w => exact absurd rfl (ha w)
  | setX i v => cases hu; exact idleOnly _ (.wroteX i v rest ht)
  | getX i => cases hu; exact idleOnly _ fun _ => .answered _ rest _ ht
  | poke addr bs =>
    cases hb : s.ctrl.busy with
    | true =>
      cases ((s.setTurns rest).hostAct_poke_of_busy addr bs hb).symm.trans hu
      exact .answered _ rest _ ht
    | false =>
      rcases Nat.lt_or_ge Config.pbufBytes (addr + bs.length) with hpast | hfit
      · cases ((s.setTurns rest).hostAct_poke_past_end addr bs hb hpast).symm.trans hu
      · cases ((s.setTurns rest).hostAct_poke_of_idle addr bs hb hfit).symm.trans hu
        exact .poked addr bs rest ht hb hfit
  | peek addr n =>
    cases hb : s.ctrl.busy with
    | true =>
      cases ((s.setTurns rest).hostAct_peek_of_busy addr n hb).symm.trans hu
      exact .answered _ rest _ ht
    | false =>
      rcases Nat.lt_or_ge Config.pbufBytes (addr + n) with hpast | hfit
      · cases ((s.setTurns rest).hostAct_peek_past_end addr n hb hpast).symm.trans hu
      · cases ((s.setTurns rest).hostAct_peek_of_idle addr n hb hfit).symm.trans hu
        exact .answered _ rest _ ht
  | get r => cases hu; exact .answered _ rest _ ht
  | cancel b =>
    cases b with
    | true => cases hu; exact .cancelled _ rest ht (.inl rfl)
    | false => cases hu; exact .answered _ rest _ ht
  | stub b => cases hu; exact idleOnly _ (.wroteStub b rest ht)
  | put r v =>
    obtain rfl : (s.setTurns rest).putReg r v = u := Host.Outcome.next.inj hu
    by_cases hr : r = 0x02
    · subst hr
      cases hb : s.ctrl.busy with
      | false => rw [(s.setTurns rest).putReg_ctrl_of_idle v hb]; exact .wroteCtrl v rest ht hb
      | true =>
        rw [(s.setTurns rest).putReg_ctrl_of_busy v hb]
        split
        · exact .cancelled _ rest ht (.inr ⟨v, ‹_›, rfl⟩)
        · exact .answered _ rest _ ht
    · rw [(s.setTurns rest).putReg_of_ne_ctrl r v hr]
      exact idleOnly _ fun _ => .answered _ rest _ ht

/-- The step of an idle block to which a word is presented: the word is illegal (R85), or its operation runs (R86). -/
def State.Presented (s t : State) (w : Half) (rest : List Turn) : Prop :=
  (∃ e, decode w = .error e) ∧ t = ((s.setTurns rest).accept w).raise .illegalOperation (w.setWidth 32) ∨
    ∃ i, decode w = .ok i ∧ exec i ((s.setTurns rest).accept w) = .next t

/-- What a step can do: a word is presented to an idle block, or another turn is taken and the block goes on, `Timeout` having
ended its wait or not. -/
theorem step_cases {s t : State} (h : step s = .next t) :
    (∃ w rest, s.presents w rest ∧ s.Presented t w rest) ∨
      ∃ u, s.Turned u ∧ (t = u ∨ t = u.settle ∨ t = u.timeoutRaised.settle) := by
  cases ht : s.turns with
  | nil => exact .inr ⟨s, .noTurn ht, .inr (.inl (Host.Outcome.next.inj (h.symm.trans (s.step_of_no_turn ht))))⟩
  | cons turn rest =>
    have hturn := h
    unfold step State.turn at hturn
    rw [ht] at hturn
    cases turn with
    | hold n => cases hturn; exact .inr ⟨_, .hold n rest ht, .inl rfl⟩
    | peer b => cases hturn; exact .inr ⟨_, .peer b rest ht, .inr (.inl rfl)⟩
    | timeout => cases hturn; exact .inr ⟨_, .timeout rest ht, .inr (.inr rfl)⟩
    | host a =>
      by_cases ha : ∀ w, a ≠ .present w
      · cases hu : (s.setTurns rest).hostAct a with
        | next u =>
          cases (s.step_of_host rest a u ht ha hu).symm.trans h
          exact .inr ⟨u, s.turned_of_hostAct u a rest ht ha hu, .inr (.inl rfl)⟩
        | fault f => cases (s.step_of_host_fault rest a f ht ha hu).symm.trans h
        | refused r => exact absurd hu ((s.setTurns rest).hostAct_ne_refused a r ha)
      · obtain ⟨w, rfl⟩ : ∃ w, a = .present w := by simpa using ha
        have hpresent := (s.step_of_present rest w ht).symm.trans h
        unfold State.present at hpresent
        split at hpresent
        · cases hpresent; exact .inr ⟨_, .answered _ rest .refused ht, .inr (.inl rfl)⟩
        · next hb =>
          refine .inl ⟨w, rest, ⟨ht, by simpa using hb⟩, ?_⟩
          split at hpresent
          · exact .inr ⟨_, ‹_›, hpresent⟩
          · exact .inl ⟨⟨_, ‹_›⟩, (Host.Outcome.next.inj hpresent).symm⟩

/-- `Timeout` leaves a state alone, or runs its suspended operation on (R338). -/
theorem State.timeoutRaised_eq_or_ran (u : State) :
    u.timeoutRaised = u ∨ ∃ c, u.cont = some c ∧ u.Ran c.instr u.timeoutRaised := by
  unfold State.timeoutRaised
  cases u.cont with
  | none => exact .inl rfl
  | some c =>
    by_cases hr : u.contReady c = true
    · exact .inl (if_pos hr)
    · refine .inr ⟨c, rfl, ?_⟩
      simp only [hr]
      exact ((State.Before.refl _ u).uncont).expire c

/-- `step_cases` in terms of what the block runs of an operation. -/
theorem step_ran {s t : State} (h : step s = .next t) :
    (∃ w rest, s.presents w rest ∧ s.Presented t w rest) ∨
      ∃ u, s.Turned u ∧ (t = u ∨ ∃ c, u.cont = some c ∧ u.Ran c.instr t) := by
  refine (step_cases h).imp_right fun ⟨u, hu, ht⟩ => ⟨u, hu, ?_⟩
  rcases ht with rfl | rfl | rfl
  · exact .inl rfl
  · exact u.settle_eq_or_ran
  · rcases u.timeoutRaised_eq_or_ran with he | ⟨c, hc, hran⟩
    · rw [he]; exact u.settle_eq_or_ran
    · exact .inr ⟨c, hc, hran.settle⟩

/-! ### What the decoder accepts (R81, R84) -/

/-- A word is its opcode above its immediate (R80). -/
theorem opcOf_append_immOf (w : Half) : (opcOf w ++ immOf w : BitVec (8 + 8)) = w := by
  apply BitVec.eq_of_getLsbD_eq
  intro k hk
  rw [Laws.EncodingMatchesRow.bit_append]
  simp only [opcOf, immOf, BitVec.getLsbD_extractLsb']
  split
  · next h => simp [h]
  · have h8 : k - 8 < 8 := by omega
    have hadd : 8 + (k - 8) = k := by omega
    simp [h8, hadd]

/-- `w` is the word of the well-formed instruction `i`. -/
def IsWordOf (w : Half) (i : Instr) : Prop := i.wellFormed = true ∧ encode i = w

theorem isWordOf_of_opc_low {w : Half} {i : Instr} (hwf : i.wellFormed = true) (ho : opcOf w = i.opc)
    (hl : immOf w = i.low) : IsWordOf w i := by
  refine ⟨hwf, ?_⟩
  unfold encode
  rw [← ho, ← hl]
  exact opcOf_append_immOf w

theorem isWordOf_of_formatN {w : Half} {i j : Instr} (hd : formatN j (immOf w) = .ok i) (ho : opcOf w = j.opc)
    (hwf : j.wellFormed = true) (hl : j.low = 0#8) : IsWordOf w i := by
  unfold formatN at hd
  split at hd
  · cases hd
    exact isWordOf_of_opc_low hwf ho (by rw [hl]; assumption)
  · cases hd

theorem isWordOf_of_formatI {w : Half} {i : Instr} {mk : Byte → Instr} (hd : formatI mk (immOf w) = .ok i)
    (ho : opcOf w = (mk (immOf w)).opc) (hwf : (mk (immOf w)).wellFormed = true) (hl : (mk (immOf w)).low = immOf w) :
    IsWordOf w i := by
  cases hd
  exact isWordOf_of_opc_low hwf ho hl.symm

theorem isWordOf_of_formatF {w : Half} {i : Instr} (hd : formatF .lpDec (immOf w) = .ok i) (ho : opcOf w = 0x71#8) :
    IsWordOf w i := by
  unfold formatF at hd
  split at hd
  · cases hd
    exact isWordOf_of_opc_low ‹_› ho rfl
  · cases hd

/-- What the decoder accepts is well-formed and has the word decoded, by the format of its row (R81, R84). -/
theorem isWordOf_of_decode {w : Half} {i : Instr} (h : decode w = .ok i) : IsWordOf w i := by
  unfold decode at h
  split at h
  all_goals first
    | exact isWordOf_of_formatN h ‹_› rfl rfl
    | exact isWordOf_of_formatI h ‹_› rfl rfl
    | exact isWordOf_of_formatF h ‹_›
    | cases h

/-- A well-formed instruction runs as it is. -/
theorem asRun_of_wellFormed {i : Instr} (h : i.wellFormed = true) : asRun i = i := by
  cases i with
  | lpDec imm =>
    have hflag : imm &&& 0xFE#8 = 0#8 := by simpa [Instr.wellFormed, flagByteOk] using h
    have hbits : ∀ k, k < 8 → k ≠ 0 → imm.getLsbD k = false := by
      intro k hk h0
      have hand := congrArg (BitVec.getLsbD · k) hflag
      have hmask : (0xFE#8).getLsbD k = true :=
        (by decide : ∀ j : Fin 8, j.val ≠ 0 → (0xFE#8).getLsbD j = true) ⟨k, hk⟩ h0
      simpa [hmask] using hand
    refine congrArg Instr.lpDec (BitVec.eq_of_getLsbD_eq fun k hk => ?_)
    rcases Nat.eq_zero_or_pos k with rfl | hpos
    · simp
    · rw [hbits k hk (by omega)]
      simp [BitVec.getLsbD_setWidth, BitVec.getLsbD_ofBool, Nat.pos_iff_ne_zero.1 hpos]
  | _ => rfl

theorem decode_ctxOpen {w : Half} (h : decode w = .ok .ctxOpen) : w = 0x0100#16 := (isWordOf_of_decode h).2.symm

theorem decode_ctxClose {w : Half} (h : decode w = .ok .ctxClose) : w = 0x0200#16 := (isWordOf_of_decode h).2.symm

/-! ### Flags (O54) -/

/-- A turn that is not taken by the block leaves the sticky fault bit, `OPEN` and the continuation. -/
theorem State.Turned.unmoved {s u : State} (h : s.Turned u) :
    u.ctrl.fault = s.ctrl.fault ∧ u.ctrl.opened = s.ctrl.opened ∧ u.cont = s.cont ∧ u.ctrl.busy = s.ctrl.busy := by
  cases h <;> exact ⟨rfl, rfl, rfl, rfl⟩

/-- An operation that has been suspended is neither `CTX.OPEN` nor `CTX.CLOSE`: it writes no flag of the host, and not `OPEN`. -/
theorem flags_not_mem_partsWritten_instr (c : Cont) : .flags ∉ partsWritten c.instr ∧ .opened ∉ partsWritten c.instr := by
  cases c <;> exact ⟨by simp [Cont.instr, partsWritten], by simp [Cont.instr, partsWritten]⟩

theorem eq_ctxOpen_of_flags {i : Instr} (h : .flags ∈ partsWritten i) : i = .ctxOpen := by
  cases i with
  | ctxOpen => rfl
  | _ => simp [partsWritten] at h

theorem eq_ctx_of_opened {i : Instr} (h : .opened ∈ partsWritten i) : i = .ctxOpen ∨ i = .ctxClose := by
  cases i with
  | ctxOpen => exact .inl rfl
  | ctxClose => exact .inr rfl
  | _ => simp [partsWritten] at h

/-- The sticky bit rises only where the operation ends with a fault (R33, R343). -/
theorem State.Ran.fault_rises {i : Instr} {s t : State} (h : s.Ran i t) (hs : s.ctrl.fault = false)
    (ht : t.ctrl.fault = true) : t.status ≠ 0x00#8 ∧ t.ctrl.busy = false ∧ t.cont = none := by
  cases h with
  | @completed u h =>
    have hu : u.ctrl.fault = false := by
      rcases h.fault with he | ⟨_, he⟩
      · rw [he, hs]
      · exact he
    cases hu.symm.trans ht
  | raised c info _ _ hc => exact ⟨hc.2, rfl, rfl⟩
  | suspended k h _ => cases (hs.symm.trans h.stuck.symm).trans ht

/-- Only `CTX.OPEN` clears the sticky bit (R33). -/
theorem State.Ran.fault_falls {i : Instr} {s t : State} (h : s.Ran i t) (hs : s.ctrl.fault = true)
    (ht : t.ctrl.fault = false) : .flags ∈ partsWritten i := by
  cases h with
  | @completed u h =>
    rcases h.fault with he | ⟨hm, _⟩
    · cases (hs.symm.trans he.symm).trans ht
    · exact hm
  | raised c info _ _ _ => cases ht
  | suspended k h _ => cases (hs.symm.trans h.stuck.symm).trans ht

/-- A step in which the block runs on from a suspension point changes none of the host's flags, nor `OPEN`. -/
theorem State.Ran.flags_of_instr {c : Cont} {u t : State} (h : u.Ran c.instr t) :
    t.ctrl.cancel = u.ctrl.cancel ∧ t.ctrl.stub = u.ctrl.stub ∧ t.ctrl.opened = u.ctrl.opened := by
  obtain ⟨hflags, hopened⟩ := flags_not_mem_partsWritten_instr c
  refine ⟨?_, ?_, h.frame.opened hopened⟩
  · exact h.frame.cancel.resolve_right fun hm => hflags hm.1
  · exact h.frame.stub.resolve_right fun hm => hflags hm.1

section Flags

variable {s t u : State} {w : Half} {rest : List Turn}

theorem State.Turned.cancel_stays (h : s.Turned u) (hs : s.ctrl.cancel = true) : u.ctrl.cancel = true := by
  cases h with
  | cancelled _ _ _ _ => rfl
  | wroteCtrl v _ _ _ => simp [hs]
  | _ => exact hs

theorem State.Turned.cancel_rises (h : s.Turned u) (hs : s.ctrl.cancel = false) (hu : u.ctrl.cancel = true) :
    ∃ rest, s.turns = .host (.cancel true) :: rest ∨ ∃ v, v.getLsbD 0 = true ∧ s.turns = .host (.put 0x02 v) :: rest := by
  cases h with
  | cancelled a rest ht ha =>
    rcases ha with rfl | ⟨v, hv, rfl⟩
    · exact ⟨rest, .inl ht⟩
    · exact ⟨rest, .inr ⟨v, hv, ht⟩⟩
  | wroteCtrl v rest ht hb => exact ⟨rest, .inr ⟨v, by simpa [hs] using hu, ht⟩⟩
  | _ => cases hs.symm.trans hu

theorem State.Turned.stub_falls (h : s.Turned u) (hs : s.ctrl.stub = true) (hu : u.ctrl.stub = false) :
    s.ctrl.busy = false ∧ ∃ rest, s.turns = .host (.stub false) :: rest ∨
      ∃ v, v.getLsbD 1 = false ∧ s.turns = .host (.put 0x02 v) :: rest := by
  cases h with
  | wroteStub b rest ht hb =>
    obtain rfl : b = false := hu
    exact ⟨hb, rest, .inl ht⟩
  | wroteCtrl v rest ht hb => exact ⟨hb, rest, .inr ⟨v, hu, ht⟩⟩
  | _ => cases hs.symm.trans hu

theorem State.Turned.stub_rises (h : s.Turned u) (hs : s.ctrl.stub = false) (hu : u.ctrl.stub = true) :
    ∃ rest, s.turns = .host (.stub true) :: rest ∨ ∃ v, v.getLsbD 1 = true ∧ s.turns = .host (.put 0x02 v) :: rest := by
  cases h with
  | wroteStub b rest ht hb =>
    obtain rfl : b = true := hu
    exact ⟨rest, .inl ht⟩
  | wroteCtrl v rest ht hb => exact ⟨rest, .inr ⟨v, hu, ht⟩⟩
  | _ => cases hs.symm.trans hu

/-- A word presented changes `CANCEL` and `STUB` only if it is that of `CTX.OPEN`, which clears them. -/
theorem State.Presented.host_flags (h : s.Presented t w rest) :
    (t.ctrl.cancel = s.ctrl.cancel ∧ t.ctrl.stub = s.ctrl.stub) ∨
      w = 0x0100#16 ∧ (s.ctrl.cancel = false → t.ctrl.cancel = false) ∧ (s.ctrl.stub = false → t.ctrl.stub = false) := by
  rcases h with ⟨_, rfl⟩ | ⟨i, hd, he⟩
  · exact .inl ⟨rfl, rfl⟩
  · have hf := (ran_of_exec he).frame
    by_cases hi : .flags ∈ partsWritten i
    · obtain rfl := eq_ctxOpen_of_flags hi
      exact .inr ⟨decode_ctxOpen hd, fun hs => hf.cancel.elim (·.trans hs) (·.2), fun hs => hf.stub.elim (·.trans hs) (·.2)⟩
    · exact .inl ⟨hf.cancel.resolve_right fun hm => hi hm.1, hf.stub.resolve_right fun hm => hi hm.1⟩

/-- A word presented changes `OPEN` only if it is that of `CTX.OPEN`, or that of `CTX.CLOSE`, which clears it. -/
theorem State.Presented.opened (h : s.Presented t w rest) :
    t.ctrl.opened = s.ctrl.opened ∨ w = 0x0100#16 ∨ w = 0x0200#16 ∧ t.ctrl.opened = false := by
  rcases h with ⟨_, rfl⟩ | ⟨i, hd, he⟩
  · exact .inl rfl
  · by_cases hi : .opened ∈ partsWritten i
    · rcases eq_ctx_of_opened hi with rfl | rfl
      · exact .inr (.inl (decode_ctxOpen hd))
      · cases he
        exact .inr (.inr ⟨decode_ctxClose hd, rfl⟩)
    · exact .inl ((ran_of_exec he).frame.opened hi)

theorem State.Presented.fault_rises (h : s.Presented t w rest) (hs : s.ctrl.fault = false) (ht : t.ctrl.fault = true) :
    t.status ≠ 0x00#8 ∧ t.ctrl.busy = false ∧ t.cont = none := by
  rcases h with ⟨_, rfl⟩ | ⟨i, _, he⟩
  · exact ⟨by simp [StatusCode.code], rfl, rfl⟩
  · exact (ran_of_exec he).fault_rises hs ht

theorem State.Presented.fault_falls (h : s.Presented t w rest) (hs : s.ctrl.fault = true) (ht : t.ctrl.fault = false) :
    w = 0x0100#16 := by
  rcases h with ⟨_, rfl⟩ | ⟨i, hd, he⟩
  · cases ht
  · obtain rfl := eq_ctxOpen_of_flags ((ran_of_exec he).fault_falls hs ht)
    exact decode_ctxOpen hd

/-- What a step can do to the flags: a word presented does it, or the turn of another agent, and the block's own run at most
raises the sticky bit, ending the operation that was suspended. -/
theorem step_flags (h : step s = .next t) :
    (∃ w rest, s.presents w rest ∧ s.Presented t w rest) ∨
      ∃ u, s.Turned u ∧ t.ctrl.cancel = u.ctrl.cancel ∧ t.ctrl.stub = u.ctrl.stub ∧ t.ctrl.opened = s.ctrl.opened ∧
        (s.ctrl.fault = true → t.ctrl.fault = true) ∧
        (s.ctrl.fault = false → t.ctrl.fault = true →
          t.status ≠ 0x00#8 ∧ t.ctrl.busy = false ∧ t.cont = none ∧ s.cont.isSome = true) := by
  refine (step_ran h).imp_right fun ⟨u, hu, ht⟩ => ⟨u, hu, ?_⟩
  obtain ⟨hfault, hopened, hcont, _⟩ := hu.unmoved
  rcases ht with rfl | ⟨c, hc, hran⟩
  · exact ⟨rfl, rfl, hopened, hfault.trans, fun hs ht => by cases (hs.symm.trans hfault.symm).trans ht⟩
  · obtain ⟨hcancel, hstub, ho⟩ := hran.flags_of_instr
    refine ⟨hcancel, hstub, ho.trans hopened, fun hs => ?_, fun hs ht => ?_⟩
    · exact Bool.of_not_eq_false fun ht => (flags_not_mem_partsWritten_instr c).1 (hran.fault_falls (hfault.trans hs) ht)
    · obtain ⟨hst, hb, hn⟩ := hran.fault_rises (hfault.trans hs) ht
      exact ⟨hst, hb, hn, by rw [← hcont, hc]; rfl⟩

end Flags

/-- Settles O54: each flag, by who takes the step (`step_flags`). -/
theorem controlFlagOwners : Obligations.ControlFlagOwners := by
  intro s t h
  have byWord : ∀ {w rest}, s.presents w rest → w = 0x0100#16 → ∃ rest, s.presents 0x0100#16 rest := by
    rintro w rest hp rfl
    exact ⟨rest, hp⟩
  rcases step_flags h with ⟨w, rest, hp, hw⟩ | ⟨u, hu, hcancel, hstub, hopened, hstays, hrises⟩
  · refine ⟨fun hs ht => ?_, fun hs ht => ?_, fun hs ht => byWord hp (hw.fault_falls hs ht), fun hs ht => ?_, fun hs ht => ?_,
      fun hs ht => ?_, fun hs ht => ?_, fun hs ht => ?_⟩
    · rcases hw.host_flags with ⟨he, _⟩ | ⟨he, _⟩
      · cases (hs.symm.trans he.symm).trans ht
      · exact byWord hp he
    · rcases hw.host_flags with ⟨he, _⟩ | ⟨_, he, _⟩
      · cases (hs.symm.trans he.symm).trans ht
      · cases (he hs).symm.trans ht
    · obtain ⟨hst, hb, hn⟩ := hw.fault_rises hs ht
      exact ⟨hst, hb, hn, .inr ⟨w, rest, hp⟩⟩
    · rcases hw.host_flags with ⟨_, he⟩ | ⟨he, _⟩
      · cases (hs.symm.trans he.symm).trans ht
      · obtain ⟨rest, hp⟩ := byWord hp he
        exact ⟨hp.2, rest, .inr (.inl hp)⟩
    · rcases hw.host_flags with ⟨_, he⟩ | ⟨_, _, he⟩
      · cases (hs.symm.trans he.symm).trans ht
      · cases (he hs).symm.trans ht
    · rcases hw.opened with he | he | ⟨_, he⟩
      · cases (hs.symm.trans he.symm).trans ht
      · exact byWord hp he
      · cases he.symm.trans ht
    · rcases hw.opened with he | rfl | ⟨rfl, _⟩
      · cases (hs.symm.trans he.symm).trans ht
      · exact ⟨rest, .inl hp⟩
      · exact ⟨rest, .inr hp⟩
  · refine ⟨fun hs ht => ?_, fun hs ht => hu.cancel_rises hs (hcancel.symm.trans ht), fun hs ht => ?_, fun hs ht => ?_,
      fun hs ht => ?_, fun hs ht => hu.stub_rises hs (hstub.symm.trans ht), fun hs ht => ?_, fun hs ht => ?_⟩
    · cases (hu.cancel_stays hs).symm.trans (hcancel.symm.trans ht)
    · cases (hstays hs).symm.trans ht
    · obtain ⟨hst, hb, hn, hc⟩ := hrises hs ht
      exact ⟨hst, hb, hn, .inl hc⟩
    · obtain ⟨hb, rest, hturn | hput⟩ := hu.stub_falls hs (hstub.symm.trans ht)
      · exact ⟨hb, rest, .inl hturn⟩
      · exact ⟨hb, rest, .inr (.inr hput)⟩
    · cases (hs.symm.trans hopened.symm).trans ht
    · cases (hs.symm.trans hopened.symm).trans ht

/-! ### How an operation ends (O55) -/

/-- The operation under way in `s` has ended at `t`, or is still suspended there. -/
def State.EndedOrSuspended (s t : State) : Prop :=
  (t.ctrl.busy = false ∧ t.opcur = none ∧ t.cont = none ∧
    (t.status = 0x00#8 ∧ t.info = 0#32 ∨ t.status ≠ 0x00#8 ∧ t.ctrl.fault = true ∧ t.x = s.x)) ∨
  (t.ctrl.busy = true ∧ t.opcur = s.opcur ∧ t.cont.isSome = true ∧ t.status = s.status ∧ t.info = s.info ∧
    t.ctrl.fault = s.ctrl.fault ∧ t.x = s.x)

theorem State.Ran.endedOrSuspended {i : Instr} {s t : State} (h : s.Ran i t) (hb : s.ctrl.busy = true) :
    s.EndedOrSuspended t := by
  cases h with
  | completed h => exact .inl ⟨rfl, rfl, rfl, .inl ⟨rfl, rfl⟩⟩
  | raised c info _ hx hc => exact .inl ⟨rfl, rfl, rfl, .inr ⟨hc.2, rfl, hx⟩⟩
  | suspended k h _ => exact .inr ⟨h.busy.trans hb, h.opcur, rfl, h.status, h.info, h.stuck, h.x⟩

/-- A turn of another agent while the block is busy touches only the schedule, `RXQ`, the port's answer and `CANCEL` (R376). -/
theorem State.Turned.of_busy {s u : State} (h : s.Turned u) (hb : s.ctrl.busy = true) :
    ∃ ts q r k, u = { s with turns := ts, rxq := q, reply := r, ctrl := { s.ctrl with cancel := k } } := by
  cases h with
  | wroteX _ _ _ _ hi | poked _ _ _ _ hi _ | wroteStub _ _ _ hi | wroteCtrl _ _ _ hi => cases hb.symm.trans hi
  | _ => exact ⟨_, _, _, _, rfl⟩

/-- What a busy block does in a step: nothing but the other agent's turn, or its suspended operation runs on from there. -/
theorem step_of_busy {s t : State} (hb : s.ctrl.busy = true) (h : step s = .next t) :
    ∃ ts q r k, ∃ u : State, u = { s with turns := ts, rxq := q, reply := r, ctrl := { s.ctrl with cancel := k } } ∧
      (t = u ∨ ∃ c, s.cont = some c ∧ u.Ran c.instr t) := by
  rcases step_ran h with ⟨w, rest, hp, _⟩ | ⟨u, hu, ht⟩
  · cases hb.symm.trans hp.2
  · obtain ⟨ts, q, r, k, rfl⟩ := hu.of_busy hb
    exact ⟨ts, q, r, k, _, rfl, ht⟩

/-- Settles O55: an operation stops in one of three ways (`State.Ran`), and other agents' turns leave a busy block's end alone. -/
theorem operationsEndOneWay : Obligations.OperationsEndOneWay := by
  refine ⟨fun i s t hb h => (ran_of_exec h).endedOrSuspended hb, fun s t hb hc h => ?_, fun i s t h => (ran_of_exec h).frame.args⟩
  obtain ⟨ts, q, r, k, u, rfl, rfl | ⟨c, _, hran⟩⟩ := step_of_busy hb h
  · exact .inr ⟨hb, rfl, hc, rfl, rfl, rfl, rfl⟩
  · exact hran.endedOrSuspended hb

/-! ### Who writes what (O57) -/

section Writers

variable {i : Instr}

theorem crc16_mem_partsWritten :
    .crc16 ∈ partsWritten i ↔ i ∈ [.c16Initf, .c16Initx, .c16Updm] ∨ ∃ b, i = .c16Updb b := by
  cases i <;> simp [partsWritten]

theorem crc32_mem_partsWritten : .crc32 ∈ partsWritten i ↔ i ∈ [.c32Init, .c32Updm] ∨ ∃ b, i = .c32Updb b := by
  cases i <;> simp [partsWritten]

theorem md5_mem_partsWritten : .md5 ∈ partsWritten i ↔ i ∈ [.md5Init, .md5Updm, .md5Fin] ∨ ∃ b, i = .md5Updb b := by
  cases i <;> simp [partsWritten]

theorem sha_mem_partsWritten : .sha ∈ partsWritten i ↔ i ∈ [.shaInit, .shaUpdm, .shaFin] ∨ ∃ b, i = .shaUpdb b := by
  cases i <;> simp [partsWritten]

theorem valid_mem_partsWritten :
    .valid ∈ partsWritten i ↔ i ∈ [.c16Initf, .c16Initx, .c32Init, .md5Init, .md5Fin, .shaInit, .shaFin] := by
  cases i <;> simp [partsWritten]

theorem baud_mem_partsWritten : .baud ∈ partsWritten i ↔ i ∈ [.ctxOpen, .brSet, .brNegBk, .brNegEsp, .brNegWm] := by
  cases i <;> simp [partsWritten]

theorem br_mem_partsWritten : .br ∈ partsWritten i ↔ i ∈ [.ctxOpen, .brNegBk, .brNegEsp, .brNegWm] := by
  cases i <;> simp [partsWritten]

theorem xmCfg_mem_partsWritten : .xmCfg ∈ partsWritten i ↔ i = .ctxOpen ∨ ∃ b, i = .xmPad b ∨ i = .xmMaxr b := by
  cases i <;> simp [partsWritten]

theorem xm_mem_partsWritten : .xm ∈ partsWritten i ↔ i ∈ [.ctxOpen, .xmSend] := by
  cases i <;> simp [partsWritten]

theorem evt_mem_partsWritten : .evt ∈ partsWritten i ↔ i ∈ [.ctxOpen, .xmSend, .brNegBk] := by
  cases i <;> simp [partsWritten]

theorem pbuf_mem_partsWritten : .pbuf ∈ partsWritten i ↔
    i ∈ [.rxRaw, .md5Fin, .md5Calc, .shaFin, .shaCalc, .brNegBk, .brNegEsp, .slDec] ∨ ∃ d, i = .lpDec d := by
  cases i <;> simp [partsWritten]

theorem tx_mem_partsWritten : .tx ∈ partsWritten i ↔
    i ∈ [.txRaw, .xmSend, .brNegBk, .brNegEsp, .brNegWm, .slEnc, .w21Enc] ∨ ∃ b, i = .lpEnc b ∨ i = .slCmd b := by
  cases i <;> simp [partsWritten]

end Writers

/-- A step from a suspension point leaves what the suspended operation leaves, but for the flags of `CTRL`. -/
theorem frame_of_step_suspended {s t : State} {c : Cont} (hb : s.ctrl.busy = true) (hc : s.cont = some c)
    (h : step s = .next t) : ∃ k, State.Frame (partsWritten c.instr) { s with ctrl := { s.ctrl with cancel := k } } t := by
  obtain ⟨ts, q, r, k, u, rfl, rfl | ⟨c', hc', hran⟩⟩ := step_of_busy hb h
  · exact ⟨k, { (State.Before.refl _ { s with ctrl := { s.ctrl with cancel := k } }).toFrame with }⟩
  · obtain rfl := Option.some.inj (hc.symm.trans hc')
    exact ⟨k, { hran.frame with }⟩

/-- Settles O57: the parts that each operation writes, unit by unit. -/
theorem registersWrittenOnlyBy : Obligations.RegistersWrittenOnlyBy := by
  intro i s t h
  obtain ⟨k, hf⟩ : ∃ k, State.Frame (partsWritten i) { s with ctrl := { s.ctrl with cancel := k } } t := by
    rcases h with h | ⟨hinv, ⟨c, hc, rfl⟩, h⟩
    · exact ⟨s.ctrl.cancel, (ran_of_exec h).frame⟩
    · exact frame_of_step_suspended (by rw [hinv.busy, hc]; rfl) hc h
  have outside : ∀ {p : Part} {A B : Prop}, (p ∈ partsWritten i ↔ A ∨ B) → ¬ A → ¬ B → p ∉ partsWritten i :=
    fun hp ha hb hm => (hp.1 hm).elim ha hb
  exact ⟨fun h h' => hf.crc16 (outside crc16_mem_partsWritten h fun ⟨b, hb⟩ => h' b hb),
    fun h h' => hf.crc32 (outside crc32_mem_partsWritten h fun ⟨b, hb⟩ => h' b hb),
    fun h h' => hf.md5 (outside md5_mem_partsWritten h fun ⟨b, hb⟩ => h' b hb),
    fun h h' => hf.sha (outside sha_mem_partsWritten h fun ⟨b, hb⟩ => h' b hb),
    fun h => hf.valid (mt valid_mem_partsWritten.1 h),
    fun h => hf.baud (mt baud_mem_partsWritten.1 h),
    fun h => hf.br (mt br_mem_partsWritten.1 h),
    fun h h' => hf.xmCfg (outside xmCfg_mem_partsWritten h fun ⟨b, hb⟩ => hb.elim (h' b).1 (h' b).2),
    fun h => hf.xm (mt xm_mem_partsWritten.1 h),
    fun h => hf.evt (mt evt_mem_partsWritten.1 h),
    fun h h' => hf.pbuf (outside pbuf_mem_partsWritten h fun ⟨d, hd⟩ => h' d hd),
    fun h h' => hf.tx (outside tx_mem_partsWritten h fun ⟨b, hb⟩ => hb.elim (h' b).1 (h' b).2)⟩

/-! ### The host at a busy and at an idle block (O7, O8) -/

/-- A busy block refuses the host's access and goes on (R376). -/
theorem State.step_of_refused (s : State) (rest : List Turn) (a : HostAction) (ht : s.turns = .host a :: rest)
    (ha : ∀ w, a ≠ .present w) (hr : (s.setTurns rest).hostAct a = .next ((s.setTurns rest).replied .refused)) :
    step s = .next (State.settle { s with turns := rest, reply := .refused }) :=
  s.step_of_host rest a _ ht ha hr

/-- An access that only an idle block allows is refused. -/
theorem State.step_of_whileIdle_busy (s : State) (rest : List Turn) (a : HostAction) (go : State → State)
    (hb : s.ctrl.busy = true) (ht : s.turns = .host a :: rest) (ha : ∀ w, a ≠ .present w)
    (hr : (s.setTurns rest).hostAct a = .next ((s.setTurns rest).whileIdle go)) :
    step s = .next (State.settle { s with turns := rest, reply := .refused }) :=
  s.step_of_refused rest a ht ha (hr.trans (congrArg _ ((s.setTurns rest).whileIdle_of_busy go hb)))

/-- A write of a whole register at a busy block: `CTRL` with bit 0 set sets `CANCEL`, every other write is refused. -/
theorem State.hostAct_put_of_busy (s : State) (r : Nat) (v : Word) (hb : s.ctrl.busy = true)
    (h : r ≠ 0x02 ∨ v.getLsbD 0 = false) : s.hostAct (.put r v) = .next (s.replied .refused) := by
  refine congrArg Host.Outcome.next ?_
  by_cases hr : r = 0x02
  · subst hr
    rw [s.putReg_ctrl_of_busy v hb, h.resolve_left (not_not_intro rfl)]
    rfl
  · rw [s.putReg_of_ne_ctrl r v hr, s.whileIdle_of_busy _ hb]

theorem State.hostAct_put_cancel_of_busy (s : State) (v : Word) (hb : s.ctrl.busy = true) (hv : v.getLsbD 0 = true) :
    s.hostAct (.put 0x02 v) = .next (s.setCancel.replied .accepted) :=
  congrArg Host.Outcome.next ((s.putReg_ctrl_of_busy v hb).trans (if_pos hv))

/-- `CANCEL` set at a busy block, written out. -/
theorem State.setCancel_replied_of_busy (s : State) (rest : List Turn) (hb : s.ctrl.busy = true) :
    (s.setTurns rest).setCancel.replied .accepted = { s with
      turns := rest
      reply := .accepted
      ctrl := ⟨true, s.ctrl.stub, s.ctrl.opened, s.ctrl.fault, true⟩ } := by
  simp only [State.setTurns, State.setCancel, State.replied, hb]

/-- Where the block stops and is still busy, `PBUF` is as it was (R376). -/
theorem State.Ran.pbuf_of_busy {i : Instr} {s t : State} (h : s.Ran i t) (ht : t.ctrl.busy = true) : t.pbuf = s.pbuf := by
  cases h with
  | completed _ | raised _ _ _ _ _ => cases ht
  | suspended k h _ => exact h.buffer

/-- Settles O7: each host action at a busy block, then the frame of a step of a busy block. -/
theorem hostExclusionWhileBusy : Obligations.HostExclusionWhileBusy := by
  intro s hb
  have cancelled {rest : List Turn} := congrArg (fun t => Host.Outcome.next (φ := Fault) (ρ := Refusal) (State.settle t))
    (s.setCancel_replied_of_busy rest hb)
  refine ⟨fun a rest ht => ⟨?setX, ?getX, ?stub, ?poke, ?peek, ?get, ?cancel, ?cancelZero, ?putCancel, ?put⟩, fun t h => ?step⟩
  case setX => rintro i v rfl; exact s.step_of_whileIdle_busy rest _ _ hb ht nofun rfl
  case getX => rintro i rfl; exact s.step_of_whileIdle_busy rest _ _ hb ht nofun rfl
  case stub => rintro b rfl; exact s.step_of_whileIdle_busy rest _ _ hb ht nofun rfl
  case poke => rintro k bs rfl; exact s.step_of_refused rest _ ht nofun (State.hostAct_poke_of_busy _ k bs hb)
  case peek => rintro k n rfl; exact s.step_of_refused rest _ ht nofun (State.hostAct_peek_of_busy _ k n hb)
  case get => rintro r rfl; exact s.step_of_host_get rest r ht
  case cancel => rintro rfl; exact (s.step_of_host rest _ _ ht nofun rfl).trans cancelled
  case cancelZero => rintro rfl; exact s.step_of_host rest _ _ ht nofun rfl
  case putCancel =>
    rintro r v rfl rfl hv
    exact (s.step_of_host rest _ _ ht nofun (State.hostAct_put_cancel_of_busy (s.setTurns rest) v hb hv)).trans cancelled
  case put =>
    rintro r v rfl h
    exact s.step_of_refused rest _ ht nofun (State.hostAct_put_of_busy (s.setTurns rest) r v hb h)
  case step =>
    obtain ⟨ts, q, r, k, u, rfl, rfl | ⟨c, _, hran⟩⟩ := step_of_busy hb h
    · exact ⟨rfl, rfl, rfl, rfl, rfl, rfl, fun _ => rfl⟩
    · obtain ⟨h0, h1, h2, h3, h4, h5⟩ := hran.frame.args
      exact ⟨h0, h1, h2, h3, h4, h5, hran.pbuf_of_busy⟩

/-- What an idle block's host action gives is the step: the block does not go on. -/
theorem State.step_of_host_idle (s : State) (rest : List Turn) (a : HostAction) (u : State) (ht : s.turns = .host a :: rest)
    (ha : ∀ w, a ≠ .present w) (hu : (s.setTurns rest).hostAct a = .next u) (hc : u.cont = none) : step s = .next u :=
  (s.step_of_host rest a u ht ha hu).trans (congrArg _ (u.settle_of_idle hc))

theorem State.hostAct_of_whileIdle_idle (s u : State) (go : State → State) (hb : s.ctrl.busy = false)
    (hu : go (s.replied .accepted) = u) : Host.Outcome.next (φ := Fault) (ρ := Refusal) (s.whileIdle go) = .next u :=
  congrArg _ ((s.whileIdle_of_idle go hb).trans hu)

theorem XRegs.get_set (x : XRegs) (i j : Fin 8) (v : Word) : (x.set i v).get j = if j = i then v else x.get j := by
  fin_cases i <;> fin_cases j <;> rfl

/-- Settles O8: each host action at an idle block. -/
theorem idleHostAccess : Obligations.IdleHostAccess := by
  intro s rest hb hc
  have idle := fun a u ht ha hu => s.step_of_host_idle rest a u ht ha hu
  have allowed := fun u go => (s.setTurns rest).hostAct_of_whileIdle_idle u go hb
  refine ⟨fun i v ht => ⟨s.x.set i v, ?setX, fun j => s.x.get_set i j v⟩, fun i ht => ?getX, fun k bs ht hfit => ?poke,
    fun k n ht hfit => ?peek, fun b ht => ?stub, fun r ht => ?get, fun ht => ?cancel, fun ht => ?cancelZero,
    fun v ht => ?putCtrl, fun r v ht hr => ?put, fun k bs ht hpast => ?pokePast, fun k n ht hpast => ?peekPast⟩
  case setX | getX | stub => exact idle _ _ ht nofun (allowed _ _ rfl) hc
  case get | cancel | cancelZero => exact idle _ _ ht nofun rfl hc
  case poke =>
    exact ⟨s.pbuf.storeBytes k bs,
      idle _ _ ht nofun (State.hostAct_poke_of_idle (s.setTurns rest) k bs hb hfit) hc, Memory.holds_storeBytes bs _ k⟩
  case peek =>
    exact ⟨s.pbuf.bytes k n, idle _ _ ht nofun (State.hostAct_peek_of_idle (s.setTurns rest) k n hb hfit) hc,
      Memory.shows_bytes _ k n⟩
  case putCtrl => exact idle _ _ ht nofun (congrArg Host.Outcome.next ((s.setTurns rest).putReg_ctrl_of_idle v hb)) hc
  case put =>
    exact idle _ _ ht nofun ((congrArg _ ((s.setTurns rest).putReg_of_ne_ctrl r v hr)).trans (allowed _ id rfl)) hc
  case pokePast =>
    exact s.step_of_host_fault rest _ _ ht nofun (State.hostAct_poke_past_end (s.setTurns rest) k bs hb hpast)
  case peekPast =>
    exact s.step_of_host_fault rest _ _ ht nofun (State.hostAct_peek_past_end (s.setTurns rest) k n hb hpast)

/-! ### The register map (O9) -/

/-- The number of two fields side by side. -/
theorem toNat_append_eq_add {m n : Nat} (x : BitVec m) (y : BitVec n) : (x ++ y).toNat = x.toNat * 2 ^ n + y.toNat := by
  rw [BitVec.toNat_append, ← Nat.shiftLeft_add_eq_or_of_lt y.isLt, Nat.shiftLeft_eq]

theorem XmState.toNat_code (v : XmState) : v.code.toNat = match v with
    | .idle => 0 | .waitInit => 1 | .send => 2 | .eot => 3 | .done => 4 | .aborted => 5 := by
  cases v <;> rfl

theorem BrState.toNat_code (v : BrState) : v.code.toNat = match v with
    | .idle => 0 | .cmdSent => 1 | .switched => 2 | .reverted => 3 | .done => 4 | .failed => 5 := by
  cases v <;> rfl

theorem Ctrl.toNat_toWord (c : Ctrl) : c.toWord.toNat =
    c.cancel.toNat + 2 * c.stub.toNat + 4 * c.opened.toNat + 8 * c.fault.toNat + 16 * c.busy.toNat := by
  simp only [Ctrl.toWord, toNat_append_eq_add, BitVec.toNat_ofNat, BitVec.toNat_ofBool]
  omega

theorem XmCfg.toNat_toWord (c : XmCfg) : c.toWord.toNat = c.pad.toNat + 2 ^ 8 * c.maxr.toNat := by
  simp only [XmCfg.toWord, toNat_append_eq_add, BitVec.toNat_ofNat]
  omega

theorem XmStat.toNat_toWord (v : XmStat) : v.toWord.toNat =
    v.state.code.toNat + 8 * v.mode.toNat + 2 ^ 8 * v.blk.toNat + 2 ^ 16 * v.retry.toNat := by
  simp only [XmStat.toWord, toNat_append_eq_add, BitVec.toNat_ofNat, BitVec.toNat_ofBool]
  omega

theorem BrStat.toNat_toWord (v : BrStat) : v.toWord.toNat = v.state.code.toNat + 2 ^ 8 * v.attempt.toNat := by
  simp only [BrStat.toWord, toNat_append_eq_add, BitVec.toNat_ofNat]
  omega

theorem Valid.toNat_toWord (v : Valid) :
    v.toWord.toNat = v.v16.toNat + 2 * v.v32.toNat + 4 * v.vmd5.toNat + 8 * v.vsha.toNat := by
  simp only [Valid.toWord, toNat_append_eq_add, BitVec.toNat_ofNat, BitVec.toNat_ofBool]
  omega

/-- The gaps of the register map read as zero (R26). -/
theorem State.readReg_gap (s : State) (r : Nat)
    (hr : (0x0C ≤ r ∧ r ≤ 0x0F) ∨ (0x13 ≤ r ∧ r ≤ 0x1F) ∨ (0x25 ≤ r ∧ r ≤ 0x2F) ∨ 0x39 ≤ r) : s.readReg r = 0#32 := by
  unfold State.readReg
  split
  case h_30 => rfl
  all_goals omega

/-- Settles O9: each register's fields as one number, and the gaps. -/
theorem registerMapReads : Obligations.RegisterMapReads := by
  intro s
  have hxm := s.xmStat.toNat_toWord
  have hbr := s.brStat.toNat_toWord
  rw [XmState.toNat_code] at hxm
  rw [BrState.toNat_code] at hbr
  exact ⟨BitVec.toNat_setWidth_of_le (by decide), rfl, s.ctrl.toNat_toWord, rfl, s.xmCfg.toNat_toWord, hxm, rfl, rfl, rfl, rfl,
    hbr, rfl, s.valid.toNat_toWord, BitVec.toNat_setWidth_of_le (by decide), rfl, rfl, rfl, rfl, rfl, rfl, rfl, rfl, rfl, rfl,
    rfl, rfl, rfl, rfl, rfl, s.readReg_gap⟩

/-! ### No context (O59), and the state after POR (O11) -/

/-- The check of `CTRL.OPEN` with no context open. -/
theorem State.inContext_of_not_opened (s : State) (go : State → State) (h : s.ctrl.opened = false) :
    s.inContext go = s.raise .noContext 0#32 := by
  simp [State.inContext, h]

/-- The operations that touch the transport, each of which checks `CTRL.OPEN` first (R32, R86). -/
def needsContext : Instr → Bool
  | .txRaw | .rxRaw | .rxDrain | .xmSend | .brSet | .brNegBk | .brNegEsp | .brNegWm | .lpEnc _ | .lpDec _ | .slEnc | .slDec
  | .slCmd _ | .w21Enc => true
  | _ => false

theorem exec_of_not_opened (s : State) (i : Instr) (h : s.ctrl.opened = false) (hi : needsContext i = true) :
    exec i s = .next (s.raise .noContext 0#32) := by
  have closed := fun go => s.inContext_of_not_opened go h
  have atOnce := fun go => congrArg (Host.Outcome.next (φ := Fault) (ρ := Refusal)) (closed go)
  have settled := fun go => congrArg (Host.Outcome.next (φ := Fault) (ρ := Refusal))
    ((congrArg State.settle (closed go)).trans (s.settle_raise .noContext 0#32))
  cases i with
  | txRaw | rxRaw | rxDrain | brSet | lpEnc _ | slEnc | slDec | slCmd _ | w21Enc => exact atOnce _
  | xmSend | brNegBk | brNegEsp | brNegWm | lpDec _ => exact settled _
  | _ => cases hi

/-- Settles O59: the check of `CTRL.OPEN` comes first in each of these operations. -/
theorem noContextFault : Obligations.NoContextFault := by
  intro s i op h hi
  refine exec_of_not_opened s i h ?_
  revert i
  simp [needsContext]

/-- Settles O11: an idle block with nothing recorded. -/
theorem resetMeetsInvariant : Obligations.ResetMeetsInvariant where
  memory := reset_memory_wf
  opcur := rfl
  busy := rfl
  context h := nomatch h
  codes := by decide
  sticky h := absurd rfl h
  baud := by decide
  lengths := by decide
  payload := by decide
  progress := by decide
  attempts := by decide
  xmodem := .inl rfl
  negotiation := .inl rfl
  wait := trivial

/-! ### The invariant (O12): the operation under way -/

/-- `s` runs the operation `i`, and meets the part of the invariant that no suspension point adds to. -/
structure State.Running (i : Instr) (s : State) : Prop where
  memory : s.pbuf.wf
  opcur : s.opcur = some (encode (asRun i))
  busy : s.ctrl.busy = true
  codes : s.status ∈ blockCodes
  sticky : s.status ≠ 0x00#8 → s.ctrl.fault = true

/-- The payload and the counters of the XMODEM sender (R43). -/
structure State.XmCounts (s : State) : Prop where
  payload : fits s.xmBase s.xmTotal.toNat
  progress : s.xmK.toNat ≤ xmPackets s.xmTotal.toNat ∧ s.xmSent.toNat = min (s.xmK.toNat * 1024) s.xmTotal.toNat

/-- The XMODEM sender's part of the invariant. -/
structure State.XmInv (s : State) : Prop extends State.XmCounts s where
  agrees : s.xmAgrees

/-- The rate and the attempts of the baud-rate negotiation (R46, R232). -/
structure State.BrCounts (s : State) : Prop where
  baud : s.baudCur ≠ 0#32
  attempts : s.brStat.attempt.toNat ≤ 11

/-- The baud-rate negotiation's part of the invariant. -/
structure State.BrInv (s : State) : Prop extends State.BrCounts s where
  agrees : s.brAgrees

/-- Never more than 2^24 bytes absorbed by the MD5 unit (R40). -/
def State.Md5LenInv (s : State) : Prop := s.md5.len.toNat ≤ 2 ^ 24

/-- Never more than 2^24 bytes absorbed by the SHA-256 unit (R42). -/
def State.ShaLenInv (s : State) : Prop := s.sha.len.toNat ≤ 2 ^ 24

section Invariant

variable {i : Instr} {s t u : State} {c : Cont}

theorem State.Inv.xmInv (h : s.Inv) : s.XmInv := ⟨⟨h.payload, h.progress⟩, h.xmodem⟩

theorem State.Inv.brInv (h : s.Inv) : s.BrInv := ⟨⟨h.baud, h.attempts⟩, h.negotiation⟩

/-- The operation at whose suspension point the block stops is the one that ran. -/
theorem State.Ran.instr_of_cont (h : s.Ran i t) (k : Cont) (hk : t.cont = some k) : k.instr = asRun i := by
  cases h with
  | completed _ => cases hk
  | raised _ _ _ _ _ => cases hk
  | suspended k' _ hk' => cases hk; exact hk'

theorem State.Ran.x_of_cont (h : s.Ran i t) (k : Cont) (hk : t.cont = some k) : t.x = s.x := by
  cases h with
  | completed _ => cases hk
  | raised _ _ _ _ _ => cases hk
  | suspended k' h _ => exact h.x

/-- Where the block stops, the invariant holds if each unit's part of it does. -/
theorem State.Ran.inv (h : s.Ran i t) (hs : s.Running i) (hopen : t.cont.isSome = true → s.ctrl.opened = true)
    (hxm : t.XmInv) (hbr : t.BrInv) (hlen : t.Md5LenInv ∧ t.ShaLenInv) (hwait : t.waitAgrees) : t.Inv where
  memory := h.frame.memory hs.memory
  opcur := by
    cases h with
    | completed _ | raised _ _ _ _ _ => rfl
    | suspended k h hk => exact (h.opcur.trans hs.opcur).trans (congrArg (fun j => some (encode j)) hk.symm)
  busy := by
    cases h with
    | completed _ | raised _ _ _ _ _ => rfl
    | suspended k h _ => exact h.busy.trans hs.busy
  context hc := by
    obtain ⟨k, hk⟩ := Option.isSome_iff_exists.1 hc
    have hparts : .opened ∉ partsWritten i := by
      rw [← partsWritten_asRun, ← h.instr_of_cont k hk]
      exact (flags_not_mem_partsWritten_instr k).2
    exact (h.frame.opened hparts).trans (hopen hc)
  codes := by
    cases h with
    | completed _ => exact (by decide : (0x00#8 : Byte) ∈ blockCodes)
    | raised c info _ _ hc => exact hc.1
    | suspended k h _ => exact h.status ▸ hs.codes
  sticky hst := by
    cases h with
    | completed _ => exact absurd rfl hst
    | raised _ _ _ _ _ => rfl
    | suspended k h _ => exact h.stuck.trans (hs.sticky (h.status ▸ hst))
  baud := hbr.baud
  lengths := hlen
  payload := hxm.payload
  progress := hxm.progress
  attempts := hbr.attempts
  xmodem := hxm.agrees
  negotiation := hbr.agrees
  wait := hwait

/-! ### A unit that the operation does not write keeps its part -/

/-- Where no XMODEM transfer is suspended, its state register is at rest. -/
theorem State.xmAgrees_iff (h : ∀ k, s.cont = some k → .xm ∉ partsWritten k.instr) :
    s.xmAgrees ↔ s.xmStat.state = .idle ∨ s.xmStat.state = .done ∨ s.xmStat.state = .aborted := by
  unfold State.xmAgrees
  split
  · next hc => exact absurd (by decide) (h _ hc)
  · next hc => exact absurd (by decide) (h _ hc)
  · next hc => exact absurd (by decide) (h _ hc)
  · exact Iff.rfl

/-- Where no negotiation is suspended, its state register is at rest. -/
theorem State.brAgrees_iff (h : ∀ k, s.cont = some k → .br ∉ partsWritten k.instr) :
    s.brAgrees ↔ s.brStat.state = .idle ∨ s.brStat.state = .done ∨ s.brStat.state = .failed := by
  unfold State.brAgrees
  split
  · next hc => exact absurd (by simp [Cont.instr, partsWritten]) (h _ hc)
  · next hc => exact absurd (by simp [Cont.instr, partsWritten]) (h _ hc)
  · next hc => exact absurd (by decide) (h _ hc)
  · next hc => exact absurd (by decide) (h _ hc)
  · exact Iff.rfl

theorem State.Ran.not_mem_of_cont {p : Part} (h : s.Ran i t) (hp : p ∉ partsWritten i) (k : Cont) (hk : t.cont = some k) :
    p ∉ partsWritten k.instr := by
  rw [h.instr_of_cont k hk, partsWritten_asRun]
  exact hp

theorem State.Ran.xmInv (h : s.Ran i t) (hi : .xm ∉ partsWritten i) (hs : s.XmInv)
    (hc : ∀ k, s.cont = some k → .xm ∉ partsWritten k.instr) : t.XmInv := by
  obtain ⟨hstat, hbase, htotal, hk, hsent⟩ := h.frame.xm hi
  refine ⟨⟨?_, ?_⟩, ?_⟩
  · rw [hbase, htotal]; exact hs.payload
  · rw [hk, htotal, hsent]; exact hs.progress
  · rw [State.xmAgrees_iff (h.not_mem_of_cont hi), hstat]
    exact (State.xmAgrees_iff hc).1 hs.agrees

theorem State.Ran.brInv (h : s.Ran i t) (hi : .br ∉ partsWritten i) (hs : s.BrInv) (hbaud : t.baudCur ≠ 0#32)
    (hc : ∀ k, s.cont = some k → .br ∉ partsWritten k.instr) : t.BrInv := by
  obtain ⟨hstat, htarget⟩ := h.frame.br hi
  refine ⟨⟨hbaud, ?_⟩, ?_⟩
  · rw [hstat]; exact hs.attempts
  · rw [State.brAgrees_iff (h.not_mem_of_cont hi), hstat]
    exact (State.brAgrees_iff hc).1 hs.agrees

/-- A suspended operation that does not write the sender's registers keeps the sender's part of the invariant. -/
theorem State.Ran.xmInv_of_instr (h : u.Ran c.instr t) (hxm : .xm ∉ partsWritten c.instr) (hu : u.XmInv)
    (hc : u.cont = some c) : t.XmInv :=
  h.xmInv hxm hu fun k hk => by cases hc.symm.trans hk; exact hxm

theorem State.Ran.brInv_of_instr (h : u.Ran c.instr t) (hbr : .br ∉ partsWritten c.instr) (hu : u.BrInv)
    (hc : u.cont = some c) : t.BrInv := by
  have hbaud : .baud ∉ partsWritten c.instr := fun hm => hbr (by cases c <;> simp [Cont.instr, partsWritten] at hm ⊢)
  exact h.brInv hbr hu (h.frame.baud hbaud ▸ hu.baud) fun k hk => by cases hc.symm.trans hk; exact hbr

/-- What the block runs when it goes on from a suspension point. -/
theorem State.ran_resume (u : State) (c : Cont) : u.Ran c.instr (u.uncont.resume c) :=
  (State.Before.refl _ u).uncont.resume c

/-- What the block runs when a wait ends by `Timeout`. -/
theorem State.ran_expire (u : State) (c : Cont) : u.Ran c.instr (u.uncont.expire c) :=
  (State.Before.refl _ u).uncont.expire c

/-! ### The XMODEM sender (R191, R193, R199 to R204) -/

theorem State.XmCounts.xmAbort (h : u.XmCounts) (c : StatusCode) (info : Word) : (u.xmAbort c info).XmInv :=
  { h with agrees := .inr (.inr rfl) }

theorem State.XmCounts.xmTransmitPacket (h : u.XmCounts) (hst : u.xmStat.state = .send)
    (hk : u.xmK.toNat < xmPackets u.xmTotal.toNat) : u.xmTransmitPacket.XmInv :=
  State.checkpoint_elim u _ _ (fun _ => State.XmCounts.xmAbort (u := u.emit _) { h with } _ _) fun _ =>
    State.txPut_elim _ _ _ _ (fun _ => { h with agrees := ⟨hst, hk⟩ })
      (fun _ _ => State.XmCounts.xmAbort (u := (u.xmSetBlk (xmBlk u.xmK.toNat)).txFailed) { h with } _ _)
      fun _ _ => { h with agrees := ⟨hst, hk⟩ }

theorem State.XmCounts.xmTransmitEot (h : u.XmCounts) (hst : u.xmStat.state = .eot)
    (hk : u.xmK.toNat = xmPackets u.xmTotal.toNat) : u.xmTransmitEot.XmInv :=
  State.checkpoint_elim u _ _ (fun _ => State.XmCounts.xmAbort (u := u.emit _) { h with } _ _) fun _ =>
    State.txPut_elim _ _ _ _ (fun _ => { h with agrees := ⟨hst, hk⟩ })
      (fun _ _ => State.XmCounts.xmAbort (u := u.txFailed) { h with } _ _)
      fun _ _ => { h with agrees := ⟨hst, hk⟩ }

theorem State.XmCounts.xmNext (h : u.XmCounts) (hst : u.xmStat.state = .send) : u.xmNext.XmInv := by
  unfold State.xmNext
  split
  · exact State.XmCounts.xmTransmitPacket { h with } hst ‹_›
  · have hk : u.xmK.toNat = xmPackets u.xmTotal.toNat := Nat.le_antisymm h.progress.1 (Nat.not_lt.1 ‹_›)
    exact State.XmCounts.xmTransmitEot { h with } rfl hk

theorem State.XmCounts.xmRetry (h : u.XmCounts) (again : State → State) (hagain : ∀ r, (again (u.xmSetRetry r)).XmInv) :
    (u.xmRetry again).XmInv := by
  unfold State.xmRetry
  split
  · exact h.xmAbort _ _
  · exact hagain _

/-- One more packet acknowledged: the counters stay within the payload (R43, R199). -/
theorem State.XmCounts.xmAdvance (h : u.XmCounts) (hk : u.xmK.toNat < xmPackets u.xmTotal.toNat) :
    u.xmAdvance.xmProgress.XmCounts := by
  rw [u.xmProgress_xmAdvance_eq hk]
  have hsucc : (BitVec.ofNat 32 (u.xmK.toNat + 1)).toNat = u.xmK.toNat + 1 :=
    BitVec.toNat_ofNat .. ▸ Nat.mod_eq_of_lt (succ_lt_of_lt_xmPackets _ _ hk)
  refine ⟨h.payload, ?_, ?_⟩
  · rw [hsucc]; exact hk
  · rw [hsucc, BitVec.toNat_ofNat]
    exact Nat.mod_eq_of_lt (Nat.lt_of_le_of_lt (Nat.min_le_right ..) u.xmTotal.isLt)

theorem State.XmCounts.xmInitByte (h : u.XmCounts) (b : Byte) : (u.xmInitByte b).XmInv := by
  unfold State.xmInitByte
  split
  · exact State.XmCounts.xmNext { h with } rfl
  · split
    · exact State.XmCounts.xmNext { h with } rfl
    · exact h.xmAbort _ _

theorem State.XmCounts.xmPacketTimeout (h : u.XmCounts) (hst : u.xmStat.state = .send)
    (hk : u.xmK.toNat < xmPackets u.xmTotal.toNat) : u.xmPacketTimeout.XmInv :=
  h.xmRetry _ fun _ => State.XmCounts.xmTransmitPacket { h with } hst hk

theorem State.XmCounts.xmEotTimeout (h : u.XmCounts) (hst : u.xmStat.state = .eot)
    (hk : u.xmK.toNat = xmPackets u.xmTotal.toNat) : u.xmEotTimeout.XmInv :=
  h.xmRetry _ fun _ => State.XmCounts.xmTransmitEot { h with } hst hk

theorem State.XmCounts.xmPacketByte (h : u.XmCounts) (hst : u.xmStat.state = .send)
    (hk : u.xmK.toNat < xmPackets u.xmTotal.toNat) (b : Byte) : (u.xmPacketByte b).XmInv := by
  unfold State.xmPacketByte
  split
  · exact (h.xmAdvance hk).xmNext hst
  · split
    · exact h.xmAbort _ _
    · exact h.xmPacketTimeout hst hk

theorem State.XmCounts.xmEotResponse (h : u.XmCounts) (hst : u.xmStat.state = .eot)
    (hk : u.xmK.toNat = xmPackets u.xmTotal.toNat) (b : Byte) : (u.xmEotResponse b).XmInv := by
  unfold State.xmEotResponse
  split
  · exact { h with agrees := .inr (.inl rfl) }
  · split
    · exact h.xmAbort _ _
    · exact h.xmEotTimeout hst hk

/-- A fault with no operation suspended leaves the sender at rest. -/
theorem State.XmInv.raise (h : u.XmInv) (hc : u.cont = none) (e : StatusCode) (info : Word) : (u.raise e info).XmInv :=
  { h with agrees := (State.xmAgrees_iff (s := u) fun _ hk => nomatch hc.symm.trans hk).1 h.agrees }

theorem State.XmInv.xmSendStart (h : u.XmInv) (hc : u.cont = none) : u.xmSendStart.XmInv :=
  State.inContext_elim u _ (fun _ => State.withInput_elim u _
    (fun hfit => ⟨⟨hfit, Nat.zero_le _, by simp [State.xmLatch, State.suspend]⟩, rfl⟩) fun _ => h.raise hc _ _) fun _ => h.raise hc _ _

/-- The sender's part of the invariant is kept where the block goes on from a suspension point. -/
theorem State.XmInv.resume (h : u.XmInv) (hc : u.cont = some c) : (u.uncont.resume c).XmInv := by
  have hcounts : u.uncont.XmCounts := { h with }
  have hag := h.agrees
  unfold State.xmAgrees at hag
  rw [hc] at hag
  by_cases hxm : .xm ∈ partsWritten c.instr
  · cases c with
    | xmInit =>
      exact State.rxByte_elim (P := State.XmInv) u.uncont _ _ (fun _ => { h with agrees := hag }) fun b _ _ =>
        State.XmCounts.xmInitByte (u := u.uncont.rxDrop 1) { h with } b
    | xmPacket =>
      exact State.rxByte_elim (P := State.XmInv) u.uncont _ _ (fun _ => { h with agrees := hag }) fun b _ _ =>
        State.XmCounts.xmPacketByte (u := u.uncont.rxDrop 1) { h with } hag.1 hag.2 b
    | xmEot =>
      exact State.rxByte_elim (P := State.XmInv) u.uncont _ _ (fun _ => { h with agrees := hag }) fun b _ _ =>
        State.XmCounts.xmEotResponse (u := u.uncont.rxDrop 1) { h with } hag.1 hag.2 b
    | _ => simp [Cont.instr, partsWritten] at hxm
  · exact (u.ran_resume c).xmInv_of_instr hxm h hc

/-- The sender's part of the invariant is kept where a wait ends by `Timeout`. -/
theorem State.XmInv.expire (h : u.XmInv) (hc : u.cont = some c) : (u.uncont.expire c).XmInv := by
  have hcounts : u.uncont.XmCounts := { h with }
  have hag := h.agrees
  unfold State.xmAgrees at hag
  rw [hc] at hag
  by_cases hxm : .xm ∈ partsWritten c.instr
  · cases c with
    | xmInit => exact hcounts.xmAbort _ _
    | xmPacket => exact hcounts.xmPacketTimeout hag.1 hag.2
    | xmEot => exact hcounts.xmEotTimeout hag.1 hag.2
    | _ => simp [Cont.instr, partsWritten] at hxm
  · exact (u.ran_expire c).xmInv_of_instr hxm h hc

/-! ### Baud-rate negotiation (R231, R232, R238, R244, R246) -/

theorem State.BrCounts.brFail (h : u.BrCounts) (e : StatusCode) (info : Word) : (u.brFail e info).BrInv :=
  { h with agrees := .inr (.inr rfl) }

/-- At most eleven attempts (R7, R238). -/
theorem State.brLimit_le (u : State) : u.brLimit ≤ 11 := by
  unfold State.brLimit
  have : u.params.brFirstExtra.toNat ≤ 1 := Bool.toNat_le _
  simp only [Config.brRetry]
  omega

/-- The command goes out and its flush or its answer is awaited: the negotiation agrees if it does with the command sent. -/
theorem State.BrCounts.txPut_cmdSent (h : u.BrCounts) (bs : List Byte)
    (hag : ((u.brSetState .cmdSent).suspend c).brAgrees) :
    (u.txPut bs State.brWriteFailed fun s => (s.brSetState .cmdSent).suspend c).BrInv :=
  State.txPut_elim u bs _ _ (fun _ => { h with agrees := hag })
    (fun _ _ => State.BrCounts.brFail (u := u.txFailed) { h with } _ _) fun _ _ => { h with agrees := hag }

theorem State.BrCounts.bkAttempt (h : u.BrCounts) (hlt : u.brStat.attempt.toNat < u.brLimit) (ht : u.brTarget ≠ 0#32)
    (cmd : List Byte) : (u.bkAttempt cmd).BrInv := by
  have hle := u.brLimit_le
  have hsucc : (u.brStat.attempt + 1#5).toNat = u.brStat.attempt.toNat + 1 := by
    rw [BitVec.toNat_add]
    exact Nat.mod_eq_of_lt (by simp; omega)
  have hpos : 1 ≤ (u.brStat.attempt + 1#5).toNat := by omega
  have hlimit : (u.brStat.attempt + 1#5).toNat ≤ u.brLimit := by omega
  have hcounts : (u.brSetAttempt (u.brStat.attempt + 1#5)).BrCounts := ⟨h.baud, hlimit.trans hle⟩
  exact State.checkpoint_elim u _ _ (fun _ => State.BrCounts.brFail (u := u.emit _) { h with } _ _) fun _ =>
    hcounts.txPut_cmdSent cmd ⟨rfl, hpos, hlimit, ht⟩

theorem State.BrInv.raise (h : u.BrInv) (hc : u.cont = none) (e : StatusCode) (info : Word) : (u.raise e info).BrInv :=
  { h with agrees := (State.brAgrees_iff (s := u) fun _ hk => nomatch hc.symm.trans hk).1 h.agrees }

theorem State.BrInv.bkStart (h : u.BrInv) (hc : u.cont = none) : u.bkStart.BrInv := by
  have fails := h.raise hc
  refine State.inContext_elim u _ (fun _ => State.withInput_elim u _ (fun _ => State.withRange_elim u _ _ _ (fun _ =>
    State.withRate_elim u _ (fun hr => ?_) fun _ => fails _ _) fun _ => fails _ _) fun _ => fails _ _) fun _ => fails _ _
  exact State.BrCounts.bkAttempt (u := u.brLatch) { h with attempts := Nat.zero_le _ } (Nat.le_max_left ..) hr _

theorem State.BrCounts.bkRespReady (h : u.BrCounts) : u.bkRespReady.BrInv :=
  State.memWrite_elim _ _ _ _ _ (fun _ => { h with agrees := .inr (.inl rfl) }) fun _ =>
    State.BrCounts.brFail (u := u.rxDrop _) { h with } _ _

theorem State.BrCounts.bkFlushed (h : u.BrCounts) (hpos : 1 ≤ u.brStat.attempt.toNat)
    (hle : u.brStat.attempt.toNat ≤ u.brLimit) (ht : u.brTarget ≠ 0#32) (cmd : List Byte) : (u.bkFlushed cmd).BrInv :=
  State.suspendUnless_elim _ _ _ _
    (fun _ => State.BrCounts.bkRespReady (u := (u.setBaud u.brTarget).brSetState .switched) { h with baud := ht })
    fun _ => { h with baud := ht, agrees := ⟨rfl, hpos, hle, ht⟩ }

theorem State.BrCounts.bkRespTimeout (h : u.BrCounts) (ht : u.brTarget ≠ 0#32) (cmd : List Byte) :
    (u.bkRespTimeout cmd).BrInv := by
  have hr : ((u.setBaud Config.baudSafe).brSetState .reverted).BrCounts :=
    { h with baud := (by decide : Config.baudSafe ≠ 0#32) }
  unfold State.bkRespTimeout
  dsimp only
  split
  · exact hr.brFail _ _
  · exact hr.bkAttempt (Nat.not_le.1 ‹_›) ht cmd

theorem State.BrInv.espStart (h : u.BrInv) (hc : u.cont = none) : u.espStart.BrInv := by
  have fails := h.raise hc
  have hcounts : (u.brLatch.brSetAttempt 1#5).BrCounts := ⟨h.baud, (by decide : (1#5).toNat ≤ 11)⟩
  exact State.inContext_elim u _ (fun _ => State.withRate_elim u _ (fun hr => hcounts.txPut_cmdSent _ ⟨rfl, hr⟩)
    fun _ => fails _ _) fun _ => fails _ _

theorem State.BrInv.wmStart (h : u.BrInv) (hc : u.cont = none) : u.wmStart.BrInv := by
  have fails := h.raise hc
  have hcounts : (u.brLatch.brSetAttempt 1#5).BrCounts := ⟨h.baud, (by decide : (1#5).toNat ≤ 11)⟩
  exact State.inContext_elim u _ (fun _ => State.withRate_elim u _ (fun hr => hcounts.txPut_cmdSent _ ⟨rfl, hr⟩)
    fun _ => fails _ _) fun _ => fails _ _

theorem State.BrCounts.espFrame (h : u.BrCounts) (hr : u.x.x2 ≠ 0#32) (f : List Byte) : (u.espFrame f).BrInv := by
  unfold State.espFrame
  split
  · exact h.brFail _ _
  · exact State.memWrite_elim _ _ _ _ _ (fun _ => { h with baud := hr, agrees := .inr (.inl rfl) }) fun _ => h.brFail _ _

/-- The negotiation's part of the invariant is kept where the block goes on from a suspension point. -/
theorem State.BrInv.resume (h : u.BrInv) (hc : u.cont = some c) : (u.uncont.resume c).BrInv := by
  have hag := h.agrees
  unfold State.brAgrees at hag
  rw [hc] at hag
  by_cases hbr : .br ∈ partsWritten c.instr
  · cases c with
    | bkFlush cmd =>
      obtain ⟨_, hpos, hle, ht⟩ := hag
      exact State.BrCounts.bkFlushed (u := u.uncont) { h with } hpos hle ht cmd
    | bkResp cmd => exact State.BrCounts.bkRespReady (u := u.uncont) { h with }
    | espResp =>
      exact State.slipReceive_elim (P := State.BrInv) u.uncont _ _ _ (fun _ => { h with agrees := hag })
        (fun f n _ => State.BrCounts.espFrame (u := u.uncont.rxDrop n) { h with } hag.2 f)
        fun _ n _ => State.BrCounts.brFail (u := u.uncont.rxDrop n) { h with } _ _
    | wmSwitch => exact { h with baud := hag.2, agrees := .inr (.inl rfl) }
    | _ => simp [Cont.instr, partsWritten] at hbr
  · exact (u.ran_resume c).brInv_of_instr hbr h hc

/-- The negotiation's part of the invariant is kept where a wait ends by `Timeout`. -/
theorem State.BrInv.expire (h : u.BrInv) (hc : u.cont = some c) : (u.uncont.expire c).BrInv := by
  have hag := h.agrees
  unfold State.brAgrees at hag
  rw [hc] at hag
  by_cases hbr : .br ∈ partsWritten c.instr
  · cases c with
    | bkFlush cmd => exact { h with agrees := hag }
    | bkResp cmd => exact State.BrCounts.bkRespTimeout (u := u.uncont) { h with } hag.2.2.2 cmd
    | espResp => exact State.BrCounts.brFail (u := u.uncont) { h with } _ _
    | wmSwitch => exact { h with agrees := hag }
    | _ => simp [Cont.instr, partsWritten] at hbr
  · exact (u.ran_expire c).brInv_of_instr hbr h hc

end Invariant

section Invariant

variable {i : Instr} {s t u : State} {c : Cont}

/-! ### The digests' lengths (R40, R42) -/

theorem Md5Unit.absorb_len (u : Md5Unit) (b : Byte) : (u.absorb b).len = u.len + 1#32 := by
  unfold Md5Unit.absorb
  dsimp only
  split <;> rfl

theorem ShaUnit.absorb_len (u : ShaUnit) (b : Byte) : (u.absorb b).len = u.len + 1#32 := by
  unfold ShaUnit.absorb
  dsimp only
  split <;> rfl

theorem toNat_succ_le (v : Word) : (v + 1#32).toNat ≤ v.toNat + 1 := by
  rw [BitVec.toNat_add]
  exact Nat.mod_le ..

theorem Md5Unit.absorb_len_le (u : Md5Unit) (b : Byte) : (u.absorb b).len.toNat ≤ u.len.toNat + 1 :=
  u.absorb_len b ▸ toNat_succ_le _

theorem ShaUnit.absorb_len_le (u : ShaUnit) (b : Byte) : (u.absorb b).len.toNat ≤ u.len.toNat + 1 :=
  u.absorb_len b ▸ toNat_succ_le _

theorem Md5Unit.foldl_absorb_len_le (m : List Byte) (u : Md5Unit) :
    (m.foldl Md5Unit.absorb u).len.toNat ≤ u.len.toNat + m.length := by
  induction m generalizing u with
  | nil => exact Nat.le_refl _
  | cons b m ih =>
    have hfirst := u.absorb_len_le b
    have hrest := ih (u.absorb b)
    rw [List.foldl_cons, List.length_cons]
    omega

theorem ShaUnit.foldl_absorb_len_le (m : List Byte) (u : ShaUnit) :
    (m.foldl ShaUnit.absorb u).len.toNat ≤ u.len.toNat + m.length := by
  induction m generalizing u with
  | nil => exact Nat.le_refl _
  | cons b m ih =>
    have hfirst := u.absorb_len_le b
    have hrest := ih (u.absorb b)
    rw [List.foldl_cons, List.length_cons]
    omega

/-- No operation takes `MD5_LEN` above 2^24 (R159). -/
theorem md5_len_of_exec (h : exec i s = .next t) (hs : s.Md5LenInv) : t.Md5LenInv := by
  by_cases hi : .md5 ∈ partsWritten i
  · cases i with
    | md5Init => cases h; exact Nat.zero_le _
    | md5Updb b =>
      cases h
      refine State.withVmd5_elim (P := State.Md5LenInv) s _ (fun _ => ?_) fun _ => hs
      refine State.withMd5Room_elim (P := State.Md5LenInv) s _ _ (fun hroom => ?_) fun _ => hs
      exact (s.md5.absorb_len_le b).trans hroom
    | md5Updm =>
      cases h
      refine State.withVmd5_elim (P := State.Md5LenInv) s _ (fun _ => ?_) fun _ => hs
      refine State.withInput_elim (P := State.Md5LenInv) s _ (fun _ => ?_) fun _ => hs
      refine State.withMd5Room_elim (P := State.Md5LenInv) s _ _ (fun hroom => ?_) fun _ => hs
      have habsorbed := Md5Unit.foldl_absorb_len_le (s.pbuf.bytes s.x.x0.toNat s.x.x1.toNat) s.md5
      rw [Memory.bytes_length] at habsorbed
      exact habsorbed.trans hroom
    | md5Fin =>
      cases h
      refine State.withVmd5_elim (P := State.Md5LenInv) s _ (fun _ => ?_) fun _ => hs
      exact State.withRange_elim (P := State.Md5LenInv) s _ _ _ (fun _ => hs) fun _ => hs
    | _ => simp [partsWritten] at hi
  · unfold State.Md5LenInv
    rw [(ran_of_exec h).frame.md5 hi]
    exact hs

/-- No operation takes `SHA_LEN` above 2^24 (R180). -/
theorem sha_len_of_exec (h : exec i s = .next t) (hs : s.ShaLenInv) : t.ShaLenInv := by
  by_cases hi : .sha ∈ partsWritten i
  · cases i with
    | shaInit => cases h; exact Nat.zero_le _
    | shaUpdb b =>
      cases h
      refine State.withVsha_elim (P := State.ShaLenInv) s _ (fun _ => ?_) fun _ => hs
      refine State.withShaRoom_elim (P := State.ShaLenInv) s _ _ (fun hroom => ?_) fun _ => hs
      exact (s.sha.absorb_len_le b).trans hroom
    | shaUpdm =>
      cases h
      refine State.withVsha_elim (P := State.ShaLenInv) s _ (fun _ => ?_) fun _ => hs
      refine State.withInput_elim (P := State.ShaLenInv) s _ (fun _ => ?_) fun _ => hs
      refine State.withShaRoom_elim (P := State.ShaLenInv) s _ _ (fun hroom => ?_) fun _ => hs
      have habsorbed := ShaUnit.foldl_absorb_len_le (s.pbuf.bytes s.x.x0.toNat s.x.x1.toNat) s.sha
      rw [Memory.bytes_length] at habsorbed
      exact habsorbed.trans hroom
    | shaFin =>
      cases h
      refine State.withVsha_elim (P := State.ShaLenInv) s _ (fun _ => ?_) fun _ => hs
      exact State.withRange_elim (P := State.ShaLenInv) s _ _ _ (fun _ => hs) fun _ => hs
    | _ => simp [partsWritten] at hi
  · unfold State.ShaLenInv
    rw [(ran_of_exec h).frame.sha hi]
    exact hs

/-! ### The pending wait (R62, R105, R237, R275 to R277) -/

/-- Only `RX.RAW`, `BR.NEG.BK` and `LP.DEC` have something to keep at their waits. -/
theorem State.Ran.waitAgrees (h : s.Ran i t) (hr : asRun i ≠ .rxRaw) (hb : asRun i ≠ .brNegBk)
    (hl : ∀ b, asRun i ≠ .lpDec b) : t.waitAgrees := by
  unfold State.waitAgrees
  split
  · next hk => exact absurd (h.instr_of_cont _ hk).symm hr
  · next hk => exact absurd (h.instr_of_cont _ hk).symm hb
  · next hk => exact absurd (h.instr_of_cont _ hk).symm hb
  · next hk => exact absurd (h.instr_of_cont _ hk).symm (hl _)
  · next hk => exact absurd (h.instr_of_cont _ hk).symm (hl _)
  · next hk => exact absurd (h.instr_of_cont _ hk).symm (hl _)
  · next hk => exact absurd (h.instr_of_cont _ hk).symm (hl _)
  · trivial

theorem State.Ran.waitAgrees_rxRaw (h : s.Ran .rxRaw t) (hfit : fits s.x.x3 s.x.x1.toNat) : t.waitAgrees := by
  cases hc : t.cont with
  | none => simp [State.waitAgrees, hc]
  | some k =>
    have hx := h.x_of_cont k hc
    have hk := h.instr_of_cont k hc
    cases k with
    | rxRaw => unfold State.waitAgrees; rw [hc, hx]; exact hfit
    | _ => cases hk

theorem State.Ran.waitAgrees_brNegBk (h : s.Ran .brNegBk t) (hfit : fits s.x.x3 s.x.x4.toNat) : t.waitAgrees := by
  cases hc : t.cont with
  | none => simp [State.waitAgrees, hc]
  | some k =>
    have hx := h.x_of_cont k hc
    have hk := h.instr_of_cont k hc
    cases k with
    | bkFlush cmd | bkResp cmd => unfold State.waitAgrees; rw [hc, hx]; exact hfit
    | _ => cases hk

theorem State.waitAgrees_lpPrefixReady (u : State) (d : Bool) (polls : Nat) (hp : polls ≤ 500) :
    (u.lpPrefixReady d polls).waitAgrees := by
  unfold State.lpPrefixReady State.lpPrefixBytes
  split
  · split
    · exact hp
    · trivial
  split
  · trivial
  split
  · split
    · trivial
    · next hne => exact ⟨Nat.le_add_left 1 polls, Nat.lt_of_le_of_ne hp hne⟩
  · trivial

theorem State.waitAgrees_lpDataReady (u : State) (polls n : Nat) : (u.lpDataReady polls n).waitAgrees :=
  State.memWrite_elim (P := State.waitAgrees) _ _ _ _ _ (fun _ => trivial) fun _ => trivial

theorem State.waitAgrees_lpLenReady (u : State) (polls : Nat) (hp : polls ≤ 500) : (u.lpLenReady polls).waitAgrees := by
  have hlen : (fromLe16 (u.rxq.take 2)).toNat ≤ 65535 := Nat.le_of_lt_succ (fromLe16 (u.rxq.take 2)).isLt
  refine State.withRange_elim (P := State.waitAgrees) _ _ _ _ (fun hfit => ?_) fun _ => trivial
  exact State.suspendUnless_elim (P := State.waitAgrees) _ _ _ _ (fun _ => State.waitAgrees_lpDataReady _ _ _)
    fun _ => ⟨hp, hlen, hfit⟩

/-- What the wait holds is kept where the block goes on from a suspension point. -/
theorem State.waitAgrees_resume (h : u.waitAgrees) (hc : u.cont = some c) : (u.uncont.resume c).waitAgrees := by
  have hran := u.ran_resume c
  unfold State.waitAgrees at h
  rw [hc] at h
  cases c with
  | rxRaw => exact hran.waitAgrees_rxRaw h
  | bkFlush cmd | bkResp cmd => exact hran.waitAgrees_brNegBk h
  | lpPrefix d polls => exact State.waitAgrees_lpPrefixReady _ d polls h
  | lpPoll d polls => exact h.2
  | lpLen polls => exact State.waitAgrees_lpLenReady _ polls h
  | lpData polls n => exact State.waitAgrees_lpDataReady _ polls n
  | xmInit | xmPacket | xmEot | espResp | wmSwitch | slDec => exact hran.waitAgrees nofun nofun nofun

/-- What the wait holds is kept where it ends by `Timeout`. -/
theorem State.waitAgrees_expire (h : u.waitAgrees) (hc : u.cont = some c) : (u.uncont.expire c).waitAgrees := by
  have hran := u.ran_expire c
  unfold State.waitAgrees at h
  rw [hc] at h
  cases c with
  | bkFlush cmd | bkResp cmd => exact hran.waitAgrees_brNegBk h
  | lpPoll d polls => exact h
  | rxRaw | lpPrefix d polls | lpLen polls | lpData polls n => trivial
  | xmInit | xmPacket | xmEot | espResp | wmSwitch | slDec => exact hran.waitAgrees nofun nofun nofun

/-! ### The block's own run, `Timeout` and the other agents' turns keep the invariant -/

theorem State.Inv.running (h : u.Inv) (hc : u.cont = some c) : u.Running c.instr where
  memory := h.memory
  opcur := by rw [asRun_instr, h.opcur, hc]; rfl
  busy := by rw [h.busy, hc]; rfl
  codes := h.codes
  sticky := h.sticky

/-- An operation that does not write the digest units keeps their lengths. -/
theorem State.Ran.lenInv (h : s.Ran i t) (hmd5 : .md5 ∉ partsWritten i) (hsha : .sha ∉ partsWritten i)
    (hs : s.Md5LenInv ∧ s.ShaLenInv) : t.Md5LenInv ∧ t.ShaLenInv := by
  unfold State.Md5LenInv State.ShaLenInv
  rw [h.frame.md5 hmd5, h.frame.sha hsha]
  exact hs

/-- A suspended operation absorbs nothing. -/
theorem State.Ran.lenInv_of_instr (h : u.Ran c.instr t) (hu : u.Md5LenInv ∧ u.ShaLenInv) : t.Md5LenInv ∧ t.ShaLenInv :=
  h.lenInv (by cases c <;> simp [Cont.instr, partsWritten]) (by cases c <;> simp [Cont.instr, partsWritten]) hu

theorem State.Inv.goOn (h : u.Inv) (hg : u.canGo = true) : u.goOn.Inv := by
  cases hc : u.cont with
  | none => simp [State.canGo, hc] at hg
  | some c =>
    rw [u.goOn_of_cont c hc]
    have hran := u.ran_resume c
    exact hran.inv (h.running hc) (fun _ => h.context (by rw [hc]; rfl)) (h.xmInv.resume hc) (h.brInv.resume hc)
      (hran.lenInv_of_instr h.lengths) (State.waitAgrees_resume h.wait hc)

theorem State.Inv.settle (h : u.Inv) : u.settle.Inv :=
  State.settle_induct (P := State.Inv) (fun _ hg h => h.goOn hg) u h

theorem State.Inv.timeoutRaised (h : u.Inv) : u.timeoutRaised.Inv := by
  cases hc : u.cont with
  | none => simpa [State.timeoutRaised, hc] using h
  | some c =>
    cases hr : u.contReady c with
    | true => simpa [State.timeoutRaised, hc, hr] using h
    | false =>
      rw [u.timeoutRaised_of_not_contReady c hc hr]
      have hran := u.ran_expire c
      exact hran.inv (h.running hc) (fun _ => h.context (by rw [hc]; rfl)) (h.xmInv.expire hc) (h.brInv.expire hc)
        (hran.lenInv_of_instr h.lengths) (State.waitAgrees_expire h.wait hc)

theorem State.Inv.cont_of_idle (h : s.Inv) (hb : s.ctrl.busy = false) : s.cont = none := by
  simpa [hb] using h.busy.symm

theorem State.brAgrees_of_idle (hc : u.cont = none) :
    u.brAgrees ↔ u.brStat.state = .idle ∨ u.brStat.state = .done ∨ u.brStat.state = .failed :=
  State.brAgrees_iff fun _ hk => nomatch hc.symm.trans hk

theorem State.waitAgrees_of_idle (hc : u.cont = none) : u.waitAgrees := by
  simp [State.waitAgrees, hc]

theorem State.Inv.turned (h : s.Inv) (hu : s.Turned u) : u.Inv := by
  cases hu with
  | wroteX i v rest ht hb =>
    have hc := h.cont_of_idle hb
    have hbr := (State.brAgrees_of_idle hc).1 h.negotiation
    exact { h with
      negotiation := (State.brAgrees_of_idle (u := ((s.setTurns rest).replied .accepted).setX i v) hc).2 hbr
      wait := State.waitAgrees_of_idle hc }
  | poked addr bs rest ht hb hfit => exact { h with memory := Memory.wf_storeBytes bs _ _ h.memory hfit }
  | _ => exact { h with }

/-! ### The acceptance of a word keeps the invariant -/

/-- The state in which an idle block that meets the invariant has accepted the word of `i`. -/
structure State.Accepted (i : Instr) (s : State) : Prop extends s.Running i where
  fresh : s.cont = none
  xm : s.XmInv
  br : s.BrInv
  len : s.Md5LenInv ∧ s.ShaLenInv

theorem State.xmAgrees_of_idle (hc : u.cont = none) :
    u.xmAgrees ↔ u.xmStat.state = .idle ∨ u.xmStat.state = .done ∨ u.xmStat.state = .aborted :=
  State.xmAgrees_iff fun _ hk => nomatch hc.symm.trans hk

theorem State.Inv.accepted (h : s.Inv) (hb : s.ctrl.busy = false) {w : Half} (hd : decode w = .ok i) :
    (s.accept w).Accepted i where
  memory := h.memory
  opcur := by
    obtain ⟨hwf, hw⟩ := isWordOf_of_decode hd
    rw [asRun_of_wellFormed hwf, hw]
    rfl
  busy := rfl
  codes := h.codes
  sticky := h.sticky
  fresh := rfl
  xm := { h.xmInv with
    agrees := (State.xmAgrees_of_idle (u := s.accept w) rfl).2 ((State.xmAgrees_of_idle (h.cont_of_idle hb)).1 h.xmodem) }
  br := { h.brInv with
    agrees := (State.brAgrees_of_idle (u := s.accept w) rfl).2
      ((State.brAgrees_of_idle (h.cont_of_idle hb)).1 h.negotiation) }
  len := h.lengths

theorem State.opened_of_inContext (u : State) (go : State → State) (h : (u.inContext go).cont.isSome = true) :
    u.ctrl.opened = true := by
  refine Bool.of_not_eq_false fun hclosed => ?_
  rw [u.inContext_of_not_opened go hclosed] at h
  cases h

theorem needsContext_asRun (i : Instr) : needsContext (asRun i) = needsContext i := by cases i <;> rfl

/-- Only an operation that needs a context is suspended, and it is with the context open (R32). -/
theorem opened_of_exec_suspended (he : exec i s = .next t) (hc : t.cont.isSome = true) : s.ctrl.opened = true := by
  obtain ⟨k, hk⟩ := Option.isSome_iff_exists.1 hc
  have hneeds : needsContext i = true := by
    rw [← needsContext_asRun, ← (ran_of_exec he).instr_of_cont k hk]
    cases k <;> rfl
  refine Bool.of_not_eq_false fun hclosed => ?_
  cases (exec_of_not_opened s i hclosed hneeds).symm.trans he
  cases hc

/-- Where an operation first stops, a unit that it does not write has its part of the invariant. -/
theorem State.Accepted.inv (hs : s.Accepted i) (h : s.Ran i t) (hopen : t.cont.isSome = true → s.ctrl.opened = true)
    (hxm : .xm ∈ partsWritten i → t.XmInv) (hbr : .br ∈ partsWritten i → t.BrInv)
    (hbaud : .br ∉ partsWritten i → .baud ∈ partsWritten i → t.baudCur ≠ 0#32) (hlen : t.Md5LenInv ∧ t.ShaLenInv) (hwait : t.waitAgrees) :
    t.Inv := by
  have fresh : ∀ {p : Part} (k : Cont), s.cont = some k → p ∉ partsWritten k.instr := fun _ hk => nomatch hs.fresh.symm.trans hk
  refine h.inv hs.toRunning hopen ?_ ?_ hlen hwait
  · by_cases hi : .xm ∈ partsWritten i
    · exact hxm hi
    · exact h.xmInv hi hs.xm fresh
  · by_cases hi : .br ∈ partsWritten i
    · exact hbr hi
    · refine h.brInv hi hs.br ?_ fresh
      by_cases hb : .baud ∈ partsWritten i
      · exact hbaud hi hb
      · rw [h.frame.baud hb]
        exact hs.br.baud

/-- The sender's registers after the reset of `CTX.OPEN` (R101). -/
theorem State.xmCounts_contextReset (u : State) : u.contextReset.XmCounts where
  payload := by simp [State.contextReset]
  progress := by simp [State.contextReset]

theorem State.waitAgrees_rxRawStart (u : State) : u.rxRawStart.waitAgrees :=
  State.inContext_elim (P := State.waitAgrees) u _
    (fun _ => State.withRange_elim (P := State.waitAgrees) u _ _ _ (fun hfit =>
      State.suspendUnless_elim (P := State.waitAgrees) u _ _ _
        (fun _ => State.memWrite_elim (P := State.waitAgrees) _ _ _ _ _ (fun _ => trivial) fun _ => trivial)
        fun _ => hfit) fun _ => trivial) fun _ => trivial

theorem State.waitAgrees_bkStart (u : State) : u.bkStart.waitAgrees :=
  State.inContext_elim (P := State.waitAgrees) u _ (fun _ => State.withInput_elim (P := State.waitAgrees) u _
    (fun _ => State.withRange_elim (P := State.waitAgrees) u _ _ _ (fun hfit =>
      State.withRate_elim (P := State.waitAgrees) u _ (fun _ =>
        State.checkpoint_elim (P := State.waitAgrees) _ _ _ (fun _ => trivial) fun _ =>
          State.txPut_elim (P := State.waitAgrees) _ _ _ _ (fun _ => hfit) (fun _ _ => trivial) fun _ _ => hfit)
        fun _ => trivial) fun _ => trivial) fun _ => trivial) fun _ => trivial

/-- An operation accepted by an idle block leads to a state that meets the invariant. -/
theorem State.Accepted.inv_of_exec (hs : s.Accepted i) (he : exec i s = .next t) : t.Inv := by
  have hran := ran_of_exec he
  have hlen : t.Md5LenInv ∧ t.ShaLenInv := ⟨md5_len_of_exec he hs.len.1, sha_len_of_exec he hs.len.2⟩
  have hopen := opened_of_exec_suspended he
  have h : s.Before (partsWritten i) s := .refl _ s
  cases i with
  | ctxOpen =>
    have hxm : t.XmInv := by
      cases he
      split <;> exact { s.xmCounts_contextReset with agrees := .inl rfl }
    have hbr : t.BrInv := by
      cases he
      split <;> exact ⟨⟨(by decide : Config.baudSafe ≠ 0#32), Nat.zero_le _⟩, .inl rfl⟩
    exact hs.inv hran hopen (fun _ => hxm) (fun _ => hbr) (fun hn => absurd (by decide) hn) hlen
      (hran.waitAgrees nofun nofun nofun)
  | brSet =>
    have hbaud : t.baudCur ≠ 0#32 := by
      cases he
      exact State.inContext_elim (P := fun t => t.baudCur ≠ 0#32) s _ (fun _ =>
        State.withRate_elim (P := fun t => t.baudCur ≠ 0#32) s _ (fun hr => hr) fun _ => hs.br.baud) fun _ => hs.br.baud
    exact hs.inv hran hopen (fun hm => absurd hm (by decide)) (fun hm => absurd hm (by decide)) (fun _ _ => hbaud) hlen
      (hran.waitAgrees nofun nofun nofun)
  | rxRaw =>
    have hwait : t.waitAgrees := by cases he; exact s.waitAgrees_rxRawStart
    exact hs.inv hran hopen (fun hm => absurd hm (by decide)) (fun hm => absurd hm (by decide))
      (fun _ hm => absurd hm (by decide)) hlen hwait
  | xmSend =>
    cases he
    have hran := h.xmSendStart
    exact State.Inv.settle <| hs.inv hran (State.opened_of_inContext s _) (fun _ => hs.xm.xmSendStart hs.fresh)
      (fun hm => absurd hm (by decide)) (fun _ hm => absurd hm (by decide)) (hran.lenInv (by decide) (by decide) hs.len)
      (hran.waitAgrees nofun nofun nofun)
  | brNegBk =>
    cases he
    have hran := h.bkStart
    exact State.Inv.settle <| hs.inv hran (State.opened_of_inContext s _) (fun hm => absurd hm (by decide))
      (fun _ => hs.br.bkStart hs.fresh) (fun hn => absurd (by decide) hn) (hran.lenInv (by decide) (by decide) hs.len)
      s.waitAgrees_bkStart
  | brNegEsp =>
    cases he
    have hran := h.espStart
    exact State.Inv.settle <| hs.inv hran (State.opened_of_inContext s _) (fun hm => absurd hm (by decide))
      (fun _ => hs.br.espStart hs.fresh) (fun hn => absurd (by decide) hn) (hran.lenInv (by decide) (by decide) hs.len)
      (hran.waitAgrees nofun nofun nofun)
  | brNegWm =>
    cases he
    have hran := h.wmStart
    exact State.Inv.settle <| hs.inv hran (State.opened_of_inContext s _) (fun hm => absurd hm (by decide))
      (fun _ => hs.br.wmStart hs.fresh) (fun hn => absurd (by decide) hn) (hran.lenInv (by decide) (by decide) hs.len)
      (hran.waitAgrees nofun nofun nofun)
  | lpDec imm =>
    cases he
    have hran := h.lpDecStart rfl
    have hwait : (s.lpDecStart (imm.getLsbD 0)).waitAgrees :=
      State.inContext_elim (P := State.waitAgrees) s _ (fun _ => Nat.zero_le 500) fun _ => trivial
    exact State.Inv.settle <| hs.inv hran (State.opened_of_inContext s _) (fun hm => by simp [partsWritten] at hm)
      (fun hm => by simp [partsWritten] at hm) (fun _ hm => by simp [partsWritten] at hm)
      (hran.lenInv (by simp [partsWritten]) (by simp [partsWritten]) hs.len) hwait
  | _ =>
    exact hs.inv hran hopen (fun hm => by simp [partsWritten] at hm) (fun hm => by simp [partsWritten] at hm)
      (fun _ hm => by simp [partsWritten] at hm) hlen (hran.waitAgrees nofun nofun nofun)

theorem State.Inv.presented {w : Half} {rest : List Turn} (h : s.Inv) (hb : s.ctrl.busy = false)
    (hw : s.Presented t w rest) : t.Inv := by
  have hrest : (s.setTurns rest).Inv := { h with }
  rcases hw with ⟨_, rfl⟩ | ⟨i, hd, he⟩
  · have hc := h.cont_of_idle hb
    exact { hrest with
      opcur := rfl
      busy := rfl
      context := nofun
      codes := (by decide : StatusCode.illegalOperation.code ∈ blockCodes)
      sticky := fun _ => rfl
      xmodem := (State.xmAgrees_of_idle hc).1 h.xmodem
      negotiation := (State.brAgrees_of_idle hc).1 h.negotiation
      wait := trivial }
  · exact (hrest.accepted hb hd).inv_of_exec he

end Invariant

/-- Settles O12: a word presented, another agent's turn, and every piece of the block's own run keep the invariant. -/
theorem stepKeepsInvariant : Obligations.StepKeepsInvariant := by
  intro s t h hstep
  rcases step_cases hstep with ⟨w, rest, hp, hw⟩ | ⟨u, hu, rfl | rfl | rfl⟩
  · exact h.presented hp.2 hw
  · exact h.turned hu
  · exact (h.turned hu).settle
  · exact (h.turned hu).timeoutRaised.settle

/-! ### The cancel flag is read at checkpoints only (O58) -/

/-- `s` with the cancel flag as `b` says. -/
def State.withCancel (s : State) (b : Bool) : State := { s with ctrl := { s.ctrl with cancel := b } }

/-- The operations that read or write the cancel flag (R30). -/
def readsCancel : Instr → Bool
  | .ctxOpen | .xmSend | .brNegBk => true
  | _ => false

theorem readsCancel_iff {i : Instr} : readsCancel i = true ↔ i ∈ [.ctxOpen, .xmSend, .brNegBk] := by
  cases i <;> simp [readsCancel]

theorem readsCancel_instr_iff {k : Cont} : readsCancel k.instr = true ↔ k.instr ∈ [.xmSend, .brNegBk] := by
  cases k <;> simp [readsCancel, Cont.instr]

section Cancel

variable {s : State} {b : Bool}

theorem ite_withCancel {p : Prop} [Decidable p] {x y x' y' : State} (hx : x = x'.withCancel b) (hy : y = y'.withCancel b) :
    (if p then x else y) = (if p then x' else y').withCancel b := by
  split
  · exact hx
  · exact hy

/-! ### The updates leave the flag alone -/

@[simp] theorem State.complete_withCancel : (s.withCancel b).complete = s.complete.withCancel b := rfl

@[simp] theorem State.stored_withCancel (addr : Word) (bs : List Byte) :
    (s.withCancel b).stored addr bs = (s.stored addr bs).withCancel b := rfl

@[simp] theorem State.md5Finished_withCancel : (s.withCancel b).md5Finished = s.md5Finished.withCancel b := rfl

@[simp] theorem State.setVmd5_withCancel (v : Bool) : (s.withCancel b).setVmd5 v = (s.setVmd5 v).withCancel b := rfl

@[simp] theorem State.freeMd5Buf_withCancel : (s.withCancel b).freeMd5Buf = s.freeMd5Buf.withCancel b := rfl

@[simp] theorem State.shaFinished_withCancel : (s.withCancel b).shaFinished = s.shaFinished.withCancel b := rfl

@[simp] theorem State.setVsha_withCancel (v : Bool) : (s.withCancel b).setVsha v = (s.setVsha v).withCancel b := rfl

@[simp] theorem State.freeShaBuf_withCancel : (s.withCancel b).freeShaBuf = s.freeShaBuf.withCancel b := rfl

@[simp] theorem State.withCancel_x : (s.withCancel b).x = s.x := rfl

@[simp] theorem State.withCancel_md5 : (s.withCancel b).md5 = s.md5 := rfl

@[simp] theorem State.withCancel_sha : (s.withCancel b).sha = s.sha := rfl

/-! ### The checks and the shared operations do not read the flag -/

section Checks

variable {go go' fail ok : State → State} {read read' : List Byte → State}

theorem State.inContext_withCancel (h : go (s.withCancel b) = (go' s).withCancel b) :
    (s.withCancel b).inContext go = (s.inContext go').withCancel b := ite_withCancel h rfl

theorem State.withInput_withCancel (h : ∀ m, read m = (read' m).withCancel b) :
    (s.withCancel b).withInput read = (s.withInput read').withCancel b := ite_withCancel (h _) rfl

theorem State.withRange_withCancel (addr : Word) (n : Nat) (h : go (s.withCancel b) = (go' s).withCancel b) :
    (s.withCancel b).withRange addr n go = (s.withRange addr n go').withCancel b := ite_withCancel h rfl

theorem State.withRate_withCancel (h : go (s.withCancel b) = (go' s).withCancel b) :
    (s.withCancel b).withRate go = (s.withRate go').withCancel b := ite_withCancel rfl h

theorem State.withLength_withCancel (limit : Nat) (h : go (s.withCancel b) = (go' s).withCancel b) :
    (s.withCancel b).withLength limit go = (s.withLength limit go').withCancel b := ite_withCancel rfl h

theorem State.withV16_withCancel (h : go (s.withCancel b) = (go' s).withCancel b) :
    (s.withCancel b).withV16 go = (s.withV16 go').withCancel b := ite_withCancel h rfl

theorem State.withV32_withCancel (h : go (s.withCancel b) = (go' s).withCancel b) :
    (s.withCancel b).withV32 go = (s.withV32 go').withCancel b := ite_withCancel h rfl

theorem State.withVmd5_withCancel (h : go (s.withCancel b) = (go' s).withCancel b) :
    (s.withCancel b).withVmd5 go = (s.withVmd5 go').withCancel b := ite_withCancel h rfl

theorem State.withVsha_withCancel (h : go (s.withCancel b) = (go' s).withCancel b) :
    (s.withCancel b).withVsha go = (s.withVsha go').withCancel b := ite_withCancel h rfl

theorem State.withMd5Room_withCancel (n : Nat) (h : go (s.withCancel b) = (go' s).withCancel b) :
    (s.withCancel b).withMd5Room n go = (s.withMd5Room n go').withCancel b := ite_withCancel rfl h

theorem State.withShaRoom_withCancel (n : Nat) (h : go (s.withCancel b) = (go' s).withCancel b) :
    (s.withCancel b).withShaRoom n go = (s.withShaRoom n go').withCancel b := ite_withCancel rfl h

theorem State.suspendUnless_withCancel (ready : Bool) (k : Cont) (h : go (s.withCancel b) = (go' s).withCancel b) :
    (s.withCancel b).suspendUnless ready k go = (s.suspendUnless ready k go').withCancel b := ite_withCancel h rfl

theorem State.memWrite_withCancel (addr : Word) (bs : List Byte) (hfail : fail (s.withCancel b) = (fail s).withCancel b)
    (hok : ok ((s.stored addr bs).withCancel b) = (ok (s.stored addr bs)).withCancel b) :
    (s.withCancel b).memWrite addr bs fail ok = (s.memWrite addr bs fail ok).withCancel b := ite_withCancel hok hfail

theorem State.txPut_withCancel (bs : List Byte) (hfail : ∀ t : State, fail (t.withCancel b) = (fail t).withCancel b)
    (hok : ∀ t : State, ok (t.withCancel b) = (ok t).withCancel b) :
    (s.withCancel b).txPut bs fail ok = (s.txPut bs fail ok).withCancel b := by
  cases bs with
  | nil => exact hok s
  | cons x bs => exact ite_withCancel (hfail s.txFailed) (hok (s.txSent (x :: bs)))

theorem State.txFinal_withCancel (bs : List Byte) : (s.withCancel b).txFinal bs = (s.txFinal bs).withCancel b :=
  State.txPut_withCancel bs (fun _ => rfl) fun _ => rfl

theorem State.slipReceive_withCancel (k : Cont) {fail : State → StatusCode → Word → State}
    {frame : State → List Byte → State}
    (hfail : ∀ (t : State) c info, fail (t.withCancel b) c info = (fail t c info).withCancel b)
    (hframe : ∀ (t : State) f, frame (t.withCancel b) f = (frame t f).withCancel b) :
    (s.withCancel b).slipReceive ((s.withCancel b).suspend k) fail frame =
      (s.slipReceive (s.suspend k) fail frame).withCancel b := by
  unfold State.slipReceive
  have hq : (s.withCancel b).rxq = s.rxq := rfl
  rw [hq]
  split
  · rfl
  · exact hframe (s.rxDrop _) _
  · exact hfail (s.rxDrop _) _ _

end Checks

/-! ### The suspension points of the operations without a checkpoint -/

theorem State.rxRawReady_withCancel : (s.withCancel b).rxRawReady = s.rxRawReady.withCancel b :=
  State.memWrite_withCancel (s := s.rxDrop s.x.x1.toNat) _ _ rfl rfl

theorem State.espFrame_withCancel (f : List Byte) : (s.withCancel b).espFrame f = (s.espFrame f).withCancel b := by
  unfold State.espFrame
  split
  · rfl
  · exact State.memWrite_withCancel _ _ rfl rfl

theorem State.lpDataReady_withCancel (polls n : Nat) :
    (s.withCancel b).lpDataReady polls n = (s.lpDataReady polls n).withCancel b :=
  State.memWrite_withCancel (s := s.rxDrop n) _ _ rfl rfl

theorem State.lpLenReady_withCancel (polls : Nat) : (s.withCancel b).lpLenReady polls = (s.lpLenReady polls).withCancel b :=
  State.withRange_withCancel (s := s.rxDrop 2) _ _ <|
    State.suspendUnless_withCancel (s := s.rxDrop 2) _ _ (State.lpDataReady_withCancel (s := s.rxDrop 2) polls 0)

theorem State.lpPrefixReady_withCancel (d : Bool) (polls : Nat) :
    (s.withCancel b).lpPrefixReady d polls = (s.lpPrefixReady d polls).withCancel b :=
  ite_withCancel (ite_withCancel rfl rfl) <| ite_withCancel rfl <| ite_withCancel (ite_withCancel rfl rfl) rfl

theorem State.slDecReady_withCancel : (s.withCancel b).slDecReady = s.slDecReady.withCancel b :=
  State.slipReceive_withCancel _ (fun _ _ _ => rfl) fun _ _ => State.memWrite_withCancel _ _ rfl rfl

theorem State.resume_withCancel (k : Cont) (hk : readsCancel k.instr = false) :
    (s.withCancel b).resume k = (s.resume k).withCancel b := by
  cases k with
  | xmInit | xmPacket | xmEot | bkFlush _ | bkResp _ => cases hk
  | rxRaw => exact State.rxRawReady_withCancel
  | espResp => exact State.slipReceive_withCancel _ (fun _ _ _ => rfl) fun _ f => State.espFrame_withCancel f
  | wmSwitch | lpPoll _ _ => rfl
  | lpPrefix d polls => exact State.lpPrefixReady_withCancel d polls
  | lpLen polls => exact State.lpLenReady_withCancel polls
  | lpData polls n => exact State.lpDataReady_withCancel polls n
  | slDec => exact State.slDecReady_withCancel

theorem State.expire_withCancel (k : Cont) (hk : readsCancel k.instr = false) :
    (s.withCancel b).expire k = (s.expire k).withCancel b := by
  cases k with
  | xmInit | xmPacket | xmEot | bkFlush _ | bkResp _ => cases hk
  | _ => rfl

/-! ### The block's own run -/

/-- No operation with a checkpoint is suspended in `s`. -/
def State.Blind (s : State) : Prop := ∀ k, s.cont = some k → readsCancel k.instr = false

theorem readsCancel_asRun (i : Instr) : readsCancel (asRun i) = readsCancel i := by cases i <;> rfl

theorem State.Ran.blind {i : Instr} {t : State} (h : s.Ran i t) (hi : readsCancel i = false) : t.Blind := fun k hk => by
  rw [h.instr_of_cont k hk, readsCancel_asRun, hi]

theorem State.contReady_withCancel (k : Cont) : (s.withCancel b).contReady k = s.contReady k := by cases k <;> rfl

theorem State.canGo_withCancel : (s.withCancel b).canGo = s.canGo := by
  unfold State.canGo
  have hc : (s.withCancel b).cont = s.cont := rfl
  rw [hc]
  cases s.cont with
  | none => rfl
  | some k => exact State.contReady_withCancel k

theorem State.Blind.goOn (h : s.Blind) (hg : s.canGo = true) :
    (s.withCancel b).goOn = s.goOn.withCancel b ∧ s.goOn.Blind := by
  cases hc : s.cont with
  | none => simp [State.canGo, hc] at hg
  | some k =>
    rw [s.goOn_of_cont k hc, (s.withCancel b).goOn_of_cont k hc]
    exact ⟨State.resume_withCancel (s := s.uncont) k (h k hc), (s.ran_resume k).blind (h k hc)⟩

theorem State.Blind.runOn (n : Nat) : ∀ {s : State}, s.Blind → State.runOn n (s.withCancel b) = (State.runOn n s).withCancel b := by
  induction n with
  | zero => exact fun _ => rfl
  | succ n ih =>
    intro s h
    cases hg : s.canGo with
    | false => rw [State.runOn_of_canGo_false _ _ hg, State.runOn_of_canGo_false _ _ (State.canGo_withCancel.trans hg)]
    | true =>
      obtain ⟨hgo, hblind⟩ := h.goOn (b := b) hg
      rw [State.runOn, State.runOn, if_pos hg, if_pos (State.canGo_withCancel.trans hg), hgo]
      exact ih hblind

theorem State.Blind.settle (h : s.Blind) : (s.withCancel b).settle = s.settle.withCancel b := by
  have ht : (s.withCancel b).turns = s.turns := rfl
  have hq : (s.withCancel b).rxq = s.rxq := rfl
  unfold State.settle
  rw [ht, hq]
  split <;> exact h.runOn _

theorem State.Blind.timeoutRaised (h : s.Blind) :
    (s.withCancel b).timeoutRaised = s.timeoutRaised.withCancel b ∧ s.timeoutRaised.Blind := by
  cases hc : s.cont with
  | none => simpa [State.timeoutRaised, hc, show (s.withCancel b).cont = none from hc] using h
  | some k =>
    cases hr : s.contReady k with
    | true =>
      have hr' : (s.withCancel b).contReady k = true := (State.contReady_withCancel k).trans hr
      simpa [State.timeoutRaised, hc, hr, hr', show (s.withCancel b).cont = some k from hc] using h
    | false =>
      rw [s.timeoutRaised_of_not_contReady k hc hr,
        (s.withCancel b).timeoutRaised_of_not_contReady k hc ((State.contReady_withCancel k).trans hr)]
      exact ⟨State.expire_withCancel (s := s.uncont) k (h k hc), (s.ran_expire k).blind (h k hc)⟩

end Cancel

/-! ### From the acceptance -/

/-- An operation without a checkpoint does the same whatever the flag is (R30). -/
theorem exec_withCancel (i : Instr) (s : State) (b : Bool) (hi : readsCancel i = false) :
    ∃ t, exec i s = .next t ∧ exec i (s.withCancel b) = .next (t.withCancel b) := by
  have next {t t' : State} (h : t' = t.withCancel b) :
      ∃ u, Host.Outcome.next (φ := Fault) (ρ := Refusal) t = .next u ∧
        Host.Outcome.next (φ := Fault) (ρ := Refusal) t' = .next (u.withCancel b) := ⟨t, rfl, congrArg _ h⟩
  have settled {i : Instr} {t t' : State} (hi : readsCancel i = false) (hran : s.Ran i t) (h : t' = t.withCancel b) :
      t'.settle = t.settle.withCancel b := by
    rw [h]
    exact (hran.blind hi).settle
  have run : ∀ i, s.Before (partsWritten i) s := fun i => .refl _ s
  cases i with
  | ctxOpen | xmSend | brNegBk => cases hi
  | ctxClose | c16Initf | c16Initx | c32Init | md5Init | shaInit | xmPad _ | xmMaxr _ => exact next rfl
  | rxDrain => exact next (State.inContext_withCancel rfl)
  | txRaw | slEnc =>
    exact next (State.inContext_withCancel <| State.withInput_withCancel fun _ => State.txFinal_withCancel _)
  | lpEnc _ | slCmd _ | w21Enc =>
    exact next (State.inContext_withCancel <| State.withInput_withCancel fun _ => State.withLength_withCancel _ <|
      State.txFinal_withCancel _)
  | rxRaw =>
    exact next (State.inContext_withCancel <| State.withRange_withCancel _ _ <| State.suspendUnless_withCancel _ _ <|
      State.rxRawReady_withCancel)
  | c16Updb _ | c16Rd => exact next (State.withV16_withCancel rfl)
  | c16Updm => exact next (State.withV16_withCancel <| State.withInput_withCancel fun _ => rfl)
  | c16Calcf | c16Calcx | c32Calc | slXsum => exact next (State.withInput_withCancel fun _ => rfl)
  | c32Updb _ | c32Rd => exact next (State.withV32_withCancel rfl)
  | c32Updm => exact next (State.withV32_withCancel <| State.withInput_withCancel fun _ => rfl)
  | md5Updb _ => exact next (State.withVmd5_withCancel <| State.withMd5Room_withCancel _ rfl)
  | md5Updm =>
    exact next (State.withVmd5_withCancel <| State.withInput_withCancel fun _ => State.withMd5Room_withCancel _ rfl)
  | md5Fin => exact next (State.withVmd5_withCancel <| State.withRange_withCancel _ _ (by simp))
  | md5Calc | shaCalc => exact next (State.withInput_withCancel fun _ => State.withRange_withCancel _ _ (by simp))
  | shaUpdb _ => exact next (State.withVsha_withCancel <| State.withShaRoom_withCancel _ rfl)
  | shaUpdm =>
    exact next (State.withVsha_withCancel <| State.withInput_withCancel fun _ => State.withShaRoom_withCancel _ rfl)
  | shaFin => exact next (State.withVsha_withCancel <| State.withRange_withCancel _ _ (by simp))
  | brSet => exact next (State.inContext_withCancel <| State.withRate_withCancel rfl)
  | brNegEsp =>
    exact next (settled hi (run _).espStart <| State.inContext_withCancel <| State.withRate_withCancel <|
      State.txPut_withCancel (s := s.brLatch.brSetAttempt 1#5) _ (fun _ => rfl) fun _ => rfl)
  | brNegWm =>
    exact next (settled hi (run _).wmStart <| State.inContext_withCancel <| State.withRate_withCancel <|
      State.txPut_withCancel (s := s.brLatch.brSetAttempt 1#5) _ (fun _ => rfl) fun _ => rfl)
  | lpDec _ => exact next (settled hi ((run _).lpDecStart rfl) <| State.inContext_withCancel rfl)
  | slDec =>
    exact next (State.inContext_withCancel <| State.suspendUnless_withCancel _ _ State.slDecReady_withCancel)
  | slRsp op =>
    refine next (State.withInput_withCancel fun m => ?_)
    cases espResponse m op <;> rfl
  | w21Chk =>
    refine next (State.withInput_withCancel fun m => ?_)
    cases w21Check m <;> rfl

/-! ### From a suspension point -/

/-- The registers but `CTRL` do not show the flag. -/
theorem State.readReg_withCancel (s : State) (b : Bool) (r : Nat) (hr : r ≠ 0x02) :
    (s.withCancel b).readReg r = s.readReg r := by
  unfold State.readReg
  split
  case h_3 => exact absurd rfl hr
  all_goals rfl

/-- A busy block answers the host, but for a turn that reads or writes `CTRL`, whatever the flag is. -/
theorem State.hostAct_withCancel (s : State) (b : Bool) (a : HostAction) (hb : s.ctrl.busy = true)
    (hp : ∀ w, a ≠ .present w) (hg : a ≠ .get 0x02) (hc : ∀ v, a ≠ .cancel v) (hw : ∀ v, a ≠ .put 0x02 v) :
    ∃ r, s.hostAct a = .next (s.replied r) ∧ (s.withCancel b).hostAct a = .next ((s.withCancel b).replied r) := by
  have hb' : (s.withCancel b).ctrl.busy = true := hb
  have refused := fun go => congrArg (Host.Outcome.next (φ := Fault) (ρ := Refusal)) (s.whileIdle_of_busy go hb)
  have refused' := fun go => congrArg (Host.Outcome.next (φ := Fault) (ρ := Refusal))
    ((s.withCancel b).whileIdle_of_busy go hb')
  cases a with
  | present w => exact absurd rfl (hp w)
  | cancel v => exact absurd rfl (hc v)
  | setX i v | getX i | stub v => exact ⟨_, refused _, refused' _⟩
  | poke addr bs => exact ⟨_, s.hostAct_poke_of_busy addr bs hb, State.hostAct_poke_of_busy _ addr bs hb'⟩
  | peek addr n => exact ⟨_, s.hostAct_peek_of_busy addr n hb, State.hostAct_peek_of_busy _ addr n hb'⟩
  | get r =>
    have hr : r ≠ 0x02 := fun he => hg (by rw [he])
    exact ⟨_, rfl, congrArg (fun v => Host.Outcome.next ((s.withCancel b).replied (.value v))) (s.readReg_withCancel b r hr)⟩
  | put r v =>
    have hr : r ≠ 0x02 := fun he => hw v (by rw [he])
    exact ⟨_, s.hostAct_put_of_busy r v hb (.inl hr), State.hostAct_put_of_busy _ r v hb' (.inl hr)⟩

/-- A step of a busy block at a suspension point of an operation without a checkpoint is the same whatever the flag is, but on a
turn of the host that reads or writes `CTRL`. -/
theorem step_withCancel (s : State) (b : Bool) (hb : s.ctrl.busy = true) (h : s.Blind)
    (ht : ∀ rest, s.turns ≠ .host (.get 0x02) :: rest ∧ (∀ v, s.turns ≠ .host (.cancel v) :: rest) ∧
      (∀ v, s.turns ≠ .host (.put 0x02 v) :: rest)) :
    ∃ t, step s = .next t ∧ step (s.withCancel b) = .next (t.withCancel b) := by
  have next {t t' : State} (he : step s = .next t) (he' : step (s.withCancel b) = .next t') (h : t' = t.withCancel b) :
      ∃ u, step s = .next u ∧ step (s.withCancel b) = .next (u.withCancel b) := ⟨t, he, h ▸ he'⟩
  have hidden : ∀ {u : State}, u.cont = s.cont → u.Blind := fun hu k hk => h k (hu.symm.trans hk)
  cases hturns : s.turns with
  | nil => exact next (s.step_of_no_turn hturns) (State.step_of_no_turn _ hturns) h.settle
  | cons turn rest =>
    cases turn with
    | hold n => exact next (s.step_of_hold rest n hturns) (State.step_of_hold _ rest n hturns) rfl
    | peer x =>
      exact next (s.step_of_peer rest x hturns) (State.step_of_peer _ rest x hturns)
        (State.Blind.settle (s := (s.setTurns rest).rxPut x) (hidden rfl))
    | timeout =>
      obtain ⟨hraised, hblind⟩ := State.Blind.timeoutRaised (s := s.setTurns rest) (b := b) (hidden rfl)
      refine next (t := (s.setTurns rest).timeoutRaised.settle)
        (t' := ((s.withCancel b).setTurns rest).timeoutRaised.settle) ?_ ?_ ?_
      · unfold step State.turn; rw [hturns]
      · unfold step State.turn; rw [show (s.withCancel b).turns = .timeout :: rest from hturns]
      · exact (congrArg State.settle hraised).trans hblind.settle
    | host a =>
      by_cases ha : ∀ w, a ≠ .present w
      · obtain ⟨hget, hcancel, hput⟩ := ht rest
        obtain ⟨r, hr, hr'⟩ := (s.setTurns rest).hostAct_withCancel b a hb ha (fun he => hget (he ▸ hturns))
          (fun v he => hcancel v (he ▸ hturns)) fun v he => hput v (he ▸ hturns)
        exact next (s.step_of_host rest a _ hturns ha hr) (State.step_of_host (s.withCancel b) rest a _ hturns ha hr')
          (State.Blind.settle (s := (s.setTurns rest).replied r) (hidden rfl))
      · obtain ⟨w, rfl⟩ : ∃ w, a = .present w := by simpa using ha
        exact next (s.step_of_present_busy rest w hturns hb) (State.step_of_present_busy _ rest w hturns hb)
          (State.Blind.settle (s := (s.setTurns rest).replied .refused) (hidden rfl))

/-- Settles O58: what an operation does commutes with setting the cancel flag, check by check (`exec_withCancel`) and turn by turn
(`step_withCancel`). -/
theorem cancelReadOnlyAtCheckpoints : Obligations.CancelReadOnlyAtCheckpoints := by
  refine ⟨fun i s c hi => exec_withCancel i s c (Bool.eq_false_iff.2 (mt readsCancel_iff.1 hi)),
    fun s k c hinv hk hi ht => step_withCancel s c ?_ ?_ ht⟩
  · rw [hinv.busy, hk]
    rfl
  · intro k' hk'
    cases hk.symm.trans hk'
    exact Bool.eq_false_iff.2 (mt readsCancel_instr_iff.1 hi)

end Sys2Proof.Machine
end

section
/-! `TX` under every step (O53). `TX` is written at one place, a transport write that passes (`State.txPut`), and there it is
appended to; this is carried through the operations that write it, and `State.Ran` says that the others leave it alone. -/

namespace Sys2Proof.Machine

/-- `TX` holds the bytes `q`, and after them what has been sent since (R64). -/
def State.TxFrom (q : List Byte) (t : State) : Prop := q <+: t.tx

section Tx

variable {q : List Byte} {i : Instr} {s t u : State}

/-! ### Where `TX` is written, and where it is not -/

/-- A transport write appends to `TX`, or leaves it (R64, R340). -/
theorem State.TxFrom.txPut (bs : List Byte) {fail ok : State → State} (h : u.TxFrom q)
    (hfail : ∀ t, t.TxFrom q → (fail t).TxFrom q) (hok : ∀ t, t.TxFrom q → (ok t).TxFrom q) :
    (u.txPut bs fail ok).TxFrom q :=
  have hsent : (u.txSent bs).TxFrom q := List.IsPrefix.trans h ⟨bs, rfl⟩
  u.txPut_elim bs fail ok (fun _ => hok u h) (fun _ _ => hfail u.txFailed h) fun _ _ => hok _ hsent

theorem State.TxFrom.of_tx_eq (h : s.TxFrom q) (he : t.tx = s.tx) : t.TxFrom q := by
  unfold State.TxFrom
  rw [he]
  exact h

theorem State.TxFrom.of_ran (h : s.TxFrom q) (hran : s.Ran i t) (hi : .tx ∉ partsWritten i) : t.TxFrom q :=
  h.of_tx_eq (hran.frame.tx hi)

section Pieces

variable (h : u.TxFrom q)
include h

/-! ### The updates that leave `TX` alone -/

theorem State.TxFrom.rxDrop (n : Nat) : (u.rxDrop n).TxFrom q := h

theorem State.TxFrom.uncont : u.uncont.TxFrom q := h

theorem State.TxFrom.emit (e : Event) : (u.emit e).TxFrom q := h

theorem State.TxFrom.xmSetState (v : XmState) : (u.xmSetState v).TxFrom q := h

theorem State.TxFrom.xmSetMode (m : Bool) : (u.xmSetMode m).TxFrom q := h

theorem State.TxFrom.xmSetBlk (b : Byte) : (u.xmSetBlk b).TxFrom q := h

theorem State.TxFrom.xmSetRetry (r : Byte) : (u.xmSetRetry r).TxFrom q := h

theorem State.TxFrom.xmAdvance : u.xmAdvance.TxFrom q := h

theorem State.TxFrom.setBaud (v : Word) : (u.setBaud v).TxFrom q := h

theorem State.TxFrom.brSetState (v : BrState) : (u.brSetState v).TxFrom q := h

theorem State.TxFrom.brSetAttempt (n : BitVec 5) : (u.brSetAttempt n).TxFrom q := h

theorem State.TxFrom.brLatch : u.brLatch.TxFrom q := h

/-! ### An operation that transmits one string and ends -/

theorem State.TxFrom.txFinal (bs : List Byte) : (u.txFinal bs).TxFrom q :=
  h.txPut bs (fun _ h => h) fun _ h => h

/-! ### `XM.SEND` (R198 to R206) -/

theorem State.TxFrom.xmTransmitPacket : u.xmTransmitPacket.TxFrom q :=
  u.checkpoint_elim _ _ (fun _ => h) fun _ => (h.xmSetBlk _).txPut _ (fun _ h => h) fun _ h => h

theorem State.TxFrom.xmTransmitEot : u.xmTransmitEot.TxFrom q :=
  u.checkpoint_elim _ _ (fun _ => h) fun _ => h.txPut _ (fun _ h => h) fun _ h => h

theorem State.TxFrom.xmNext : u.xmNext.TxFrom q := by
  unfold State.xmNext
  split
  · exact (h.xmSetRetry _).xmTransmitPacket
  · exact ((h.xmSetState _).xmSetRetry _).xmTransmitEot

theorem State.TxFrom.xmRetry {again : State → State} (hagain : ∀ t, t.TxFrom q → (again t).TxFrom q) :
    (u.xmRetry again).TxFrom q := by
  unfold State.xmRetry
  split
  · exact h
  · exact hagain _ (h.xmSetRetry _)

theorem State.TxFrom.xmSendStart : u.xmSendStart.TxFrom q :=
  u.inContext_elim _ (fun _ => u.withInput_elim _ (fun _ => h) fun _ => h) fun _ => h

theorem State.TxFrom.xmInitByte (b : Byte) : (u.xmInitByte b).TxFrom q := by
  unfold State.xmInitByte
  split
  · exact ((h.xmSetMode _).xmSetState _).xmNext
  split
  · exact ((h.xmSetMode _).xmSetState _).xmNext
  · exact h

theorem State.TxFrom.xmPacketByte (b : Byte) : (u.xmPacketByte b).TxFrom q := by
  unfold State.xmPacketByte
  split
  · exact (h.xmAdvance.emit _).xmNext
  split
  · exact h
  · exact h.xmRetry fun _ h => h.xmTransmitPacket

theorem State.TxFrom.xmEotResponse (b : Byte) : (u.xmEotResponse b).TxFrom q := by
  unfold State.xmEotResponse
  split
  · exact h
  split
  · exact h
  · exact h.xmRetry fun _ h => h.xmTransmitEot

/-! ### Baud-rate negotiation (R237 to R246) -/

theorem State.TxFrom.bkAttempt (cmd : List Byte) : (u.bkAttempt cmd).TxFrom q :=
  u.checkpoint_elim _ _ (fun _ => h) fun _ => (h.brSetAttempt _).txPut cmd (fun _ h => h) fun _ h => h

theorem State.TxFrom.bkStart : u.bkStart.TxFrom q :=
  u.inContext_elim _ (fun _ => u.withInput_elim _ (fun _ => u.withRange_elim _ _ _ (fun _ => u.withRate_elim _
    (fun _ => h.brLatch.bkAttempt _) fun _ => h) fun _ => h) fun _ => h) fun _ => h

theorem State.TxFrom.bkRespReady : u.bkRespReady.TxFrom q :=
  (u.rxDrop _).memWrite_elim _ _ _ _ (fun _ => h) fun _ => h

theorem State.TxFrom.bkFlushed (cmd : List Byte) : (u.bkFlushed cmd).TxFrom q :=
  State.suspendUnless_elim _ _ _ _ (fun _ => ((h.setBaud _).brSetState _).bkRespReady) fun _ => h

theorem State.TxFrom.bkRespTimeout (cmd : List Byte) : (u.bkRespTimeout cmd).TxFrom q := by
  unfold State.bkRespTimeout
  dsimp only
  split
  · exact h
  · exact ((h.setBaud _).brSetState _).bkAttempt cmd

theorem State.TxFrom.espStart : u.espStart.TxFrom q :=
  u.inContext_elim _ (fun _ => u.withRate_elim _
    (fun _ => (h.brLatch.brSetAttempt _).txPut _ (fun _ h => h) fun _ h => h) fun _ => h) fun _ => h

theorem State.TxFrom.espFrame (f : List Byte) : (u.espFrame f).TxFrom q := by
  unfold State.espFrame
  split
  · exact h
  · exact u.memWrite_elim _ _ _ _ (fun _ => h) fun _ => h

theorem State.TxFrom.espReady : u.espReady.TxFrom q :=
  u.slipReceive_elim _ _ _ (fun _ => h) (fun f _ _ => (h.rxDrop _).espFrame f) fun _ _ _ => h

theorem State.TxFrom.wmStart : u.wmStart.TxFrom q :=
  u.inContext_elim _ (fun _ => u.withRate_elim _
    (fun _ => (h.brLatch.brSetAttempt _).txPut _ (fun _ h => h) fun _ h => h) fun _ => h) fun _ => h

/-! ### Every suspension point, and the block's own run -/

theorem State.TxFrom.resume (k : Cont) : (u.resume k).TxFrom q := by
  cases k with
  | xmInit => exact u.rxByte_elim _ _ (fun _ => h) fun b _ _ => (h.rxDrop 1).xmInitByte b
  | xmPacket => exact u.rxByte_elim _ _ (fun _ => h) fun b _ _ => (h.rxDrop 1).xmPacketByte b
  | xmEot => exact u.rxByte_elim _ _ (fun _ => h) fun b _ _ => (h.rxDrop 1).xmEotResponse b
  | bkFlush cmd => exact h.bkFlushed cmd
  | bkResp cmd => exact h.bkRespReady
  | espResp => exact h.espReady
  | wmSwitch => exact h
  | rxRaw | lpPrefix _ _ | lpPoll _ _ | lpLen _ | lpData _ _ | slDec =>
    exact h.of_ran (State.Before.resume _ (.refl _ u)) (by simp [Cont.instr, partsWritten])

theorem State.TxFrom.expire (k : Cont) : (u.expire k).TxFrom q := by
  cases k with
  | xmPacket => exact h.xmRetry fun _ h => h.xmTransmitPacket
  | xmEot => exact h.xmRetry fun _ h => h.xmTransmitEot
  | bkResp cmd => exact h.bkRespTimeout cmd
  | rxRaw | xmInit | bkFlush _ | espResp | wmSwitch | lpPrefix _ _ | lpPoll _ _ | lpLen _ | lpData _ _ | slDec => exact h

theorem State.TxFrom.goOn : u.goOn.TxFrom q := by
  unfold State.goOn
  split
  · exact h
  · exact h.uncont.resume _

theorem State.TxFrom.settle : u.settle.TxFrom q :=
  State.settle_induct (P := State.TxFrom q) (fun _ _ h => h.goOn) u h

theorem State.TxFrom.timeoutRaised : u.timeoutRaised.TxFrom q := by
  unfold State.timeoutRaised
  split
  · exact h
  split
  · exact h
  · exact h.uncont.expire _

end Pieces

/-! ### Every operation, and every turn -/

/-- The operations that transmit, one by one; the others leave `TX` alone. -/
theorem State.TxFrom.of_exec (h : s.TxFrom q) (he : exec i s = .next t) : t.TxFrom q := by
  cases i with
  | txRaw | slEnc =>
    cases he
    exact s.inContext_elim _ (fun _ => s.withInput_elim _ (fun _ => h.txFinal _) fun _ => h) fun _ => h
  | lpEnc _ | slCmd _ | w21Enc =>
    cases he
    exact s.inContext_elim _ (fun _ => s.withInput_elim _ (fun _ => s.withLength_elim _ _ (fun _ => h.txFinal _) fun _ => h)
      fun _ => h) fun _ => h
  | xmSend => cases he; exact h.xmSendStart.settle
  | brNegBk => cases he; exact h.bkStart.settle
  | brNegEsp => cases he; exact h.espStart.settle
  | brNegWm => cases he; exact h.wmStart.settle
  | _ => exact h.of_ran (ran_of_exec he) (by simp [partsWritten])

theorem State.Presented.txFrom {w : Half} {rest : List Turn} (hp : s.Presented t w rest) (h : s.TxFrom q) :
    t.TxFrom q := by
  rcases hp with ⟨_, rfl⟩ | ⟨i, _, he⟩
  · exact h
  · exact State.TxFrom.of_exec (s := (s.setTurns rest).accept w) h he

/-- No other agent's turn writes `TX` (R64). -/
theorem State.Turned.tx_eq (hu : s.Turned u) : u.tx = s.tx := by cases hu <;> rfl

theorem State.TxFrom.of_step (h : s.TxFrom q) (hstep : step s = .next t) : t.TxFrom q := by
  rcases step_cases hstep with ⟨w, rest, _, hp⟩ | ⟨u, hu, ht⟩
  · exact hp.txFrom h
  · have hfrom : u.TxFrom q := h.of_tx_eq hu.tx_eq
    rcases ht with rfl | rfl | rfl
    · exact hfrom
    · exact hfrom.settle
    · exact hfrom.timeoutRaised.settle

end Tx

/-- Settles O53: `TX` begins with itself, and every step keeps what it begins with (`State.TxFrom.of_step`). -/
theorem txOnlyGrows : Obligations.TxOnlyGrows := by
  intro s t h
  have hself : s.TxFrom s.tx := ⟨[], List.append_nil s.tx⟩
  obtain ⟨more, hmore⟩ := hself.of_step h
  exact ⟨more, hmore.symm⟩

end Sys2Proof.Machine
end

section
/-! Operation words (O1 to O5) and the start of `XM.SEND` (O31). The decoder is said once, as a table: the opcode picks the row,
and the row's format reads the low byte (`decode_of_opcOf`). Both round trips, and which words are illegal, follow from it. -/

namespace Sys2Proof

open Machine Laws.EncodingMatchesRow

/-! ### The rows of the opcode map (R81, R84) -/

/-- The instruction of the same row with another immediate byte; a row of format N has the one instruction. -/
def Instr.withImm (imm : Byte) : Instr → Instr
  | .c16Updb _ => .c16Updb imm
  | .c32Updb _ => .c32Updb imm
  | .md5Updb _ => .md5Updb imm
  | .shaUpdb _ => .shaUpdb imm
  | .xmPad _ => .xmPad imm
  | .xmMaxr _ => .xmMaxr imm
  | .lpEnc _ => .lpEnc imm
  | .lpDec _ => .lpDec imm
  | .slCmd _ => .slCmd imm
  | .slRsp _ => .slRsp imm
  | i => i

/-- How a row of each format reads the low byte `imm` of a word; `row` gives its instruction (R81). -/
def Format.read (row : Byte → Instr) (imm : Byte) : Format → Except DecodeError Instr
  | .n => formatN (row imm) imm
  | .i => formatI row imm
  | .f => formatF row imm

theorem Instr.withImm_low (i : Instr) : i.withImm i.low = i := by cases i <;> rfl

theorem Instr.low_of_format_n {i : Instr} (h : i.format = .n) : i.low = 0#8 := by
  cases i with
  | c16Updb _ | c32Updb _ | md5Updb _ | shaUpdb _ | xmPad _ | xmMaxr _ | lpEnc _ | lpDec _ | slCmd _ | slRsp _ => cases h
  | _ => rfl

theorem Instr.flagByteOk_of_format_f {i : Instr} (h : i.format = .f) (hwf : i.wellFormed = true) :
    flagByteOk i.low = true := by
  cases i with
  | lpDec imm => exact hwf
  | _ => cases h

/-- The decoder as the table of R84: a word with the opcode of a row is read as the format of that row says. -/
theorem decode_of_opcOf {w : Half} {i : Instr} (h : opcOf w = i.opc) :
    decode w = i.format.read (fun imm => i.withImm imm) (immOf w) := by
  unfold decode
  rw [h]
  cases i <;> rfl

/-- No row of R84 has an opcode that R85 lists as belonging to none. -/
theorem Instr.opc_listed (i : Instr) : unlistedOpcode i.opc.toNat = false := by cases i <;> rfl

/-! ### The round trips (R80, R84) -/

theorem opcOf_encode (i : Instr) : opcOf (encode i) = i.opc := opc_append i.opc i.low

theorem immOf_encode (i : Instr) : immOf (encode i) = i.low := imm_append i.opc i.low

theorem decode_encode {i : Instr} (hwf : i.wellFormed = true) : decode (encode i) = .ok i := by
  have hrow : i.withImm i.low = i := i.withImm_low
  rw [decode_of_opcOf (opcOf_encode i), immOf_encode]
  cases hf : i.format with
  | n => exact (if_pos (Instr.low_of_format_n hf)).trans (congrArg Except.ok hrow)
  | i => exact congrArg Except.ok hrow
  | f => exact (if_pos (Instr.flagByteOk_of_format_f hf hwf)).trans (congrArg Except.ok hrow)

/-- Settles O2: the row of an instruction's opcode reads its own low byte back (`decode_encode`). -/
theorem decodeInvertsEncode : Obligations.DecodeInvertsEncode := fun _ => decode_encode

/-- Settles O3: what the decoder accepts is the word of a well-formed instruction (`isWordOf_of_decode`). -/
theorem encodeInvertsDecode : Obligations.EncodeInvertsDecode := fun _ _ => isWordOf_of_decode

/-! ### Illegal words (R85) -/

/-- A word that selects no operation is one that the decoder rejects. -/
theorem selectsNothing_iff_decode_error {w : Half} : selectsNothing w ↔ ∃ e, decode w = .error e := by
  constructor
  · intro h
    cases hd : decode w with
    | error e => exact ⟨e, rfl⟩
    | ok i =>
      obtain ⟨hwf, hw⟩ := isWordOf_of_decode hd
      exact absurd hw (h i hwf)
  · rintro ⟨e, he⟩ i hwf rfl
    cases he.symm.trans (decode_encode hwf)

theorem selectsNothing_of_unlistedOpcode {o : Byte} (l : Byte) (h : unlistedOpcode o.toNat = true) :
    selectsNothing (o ++ l) := by
  intro i _ hw
  have hopc : i.opc = o := (opcOf_encode i).symm.trans ((congrArg opcOf hw).trans (opc_append o l))
  have hlisted := i.opc_listed
  rw [hopc, h] at hlisted
  cases hlisted

theorem decode_opc_append (i : Instr) (l : Byte) :
    decode (i.opc ++ l) = i.format.read (fun imm => i.withImm imm) l := by
  rw [decode_of_opcOf (opc_append i.opc l), imm_append]

theorem decode_of_nonzero_low_byte {i : Instr} {l : Byte} (hf : i.format = .n) (hl : l ≠ 0#8) :
    decode (i.opc ++ l) = .error (.nonzeroLowByte l) := by
  rw [decode_opc_append, hf]
  exact if_neg hl

theorem decode_of_nonzero_flag_bits {l : Byte} (hl : l &&& 0xFE#8 ≠ 0#8) :
    decode (0x71#8 ++ l) = .error (.nonzeroFlagBits l) := by
  have hbad : ¬ flagByteOk l = true := by simpa [flagByteOk] using hl
  exact (decode_opc_append (.lpDec l) l).trans (if_neg hbad)

namespace Machine

/-! ### A word presented to an idle block (R25, R85, R86) -/

section Present

variable (s : State) (w : Half) (rest : List Turn)

theorem State.step_of_present_legal {i : Instr} (hp : s.presents w rest) (hd : decode w = .ok i) :
    step s = exec i (s.accepted w rest) := by
  obtain ⟨ht, hidle⟩ := hp
  rw [s.step_of_present rest w ht]
  simp only [State.present, setTurns_ctrl, hidle, hd]
  rfl

theorem State.step_of_present_illegal {e : DecodeError} (hp : s.presents w rest) (hd : decode w = .error e) :
    step s = .next ((s.accepted w rest).faulted 0x10#8 (w.setWidth 32)) := by
  obtain ⟨ht, hidle⟩ := hp
  rw [s.step_of_present rest w ht]
  simp only [State.present, setTurns_ctrl, hidle, hd]
  rfl

end Present

/-- Settles O4: a word that selects nothing is rejected by the decoder, and each kind of illegal word is such. -/
theorem illegalWordsRaise : Obligations.IllegalWordsRaise := by
  refine ⟨fun s w rest hp hw => ?raises, fun o l ho => selectsNothing_of_unlistedOpcode l ho, fun i l hf hl => ?lowByte,
    fun l hl => ?flagBits, ?zero⟩
  case raises =>
    obtain ⟨e, he⟩ := selectsNothing_iff_decode_error.1 hw
    exact s.step_of_present_illegal w rest hp he
  case lowByte => exact selectsNothing_iff_decode_error.2 ⟨_, decode_of_nonzero_low_byte hf hl⟩
  case flagBits => exact selectsNothing_iff_decode_error.2 ⟨_, decode_of_nonzero_flag_bits hl⟩
  case zero => exact selectsNothing_of_unlistedOpcode (o := 0x00#8) 0x00#8 rfl

/-! ### The start of `XM.SEND` (R193, R198) -/

section XmSend

variable (s : State)

theorem State.withInput_of_not_fits (go : List Byte → State) (h : ¬ fits s.x.x0 s.x.x1.toNat) :
    s.withInput go = s.raise .bufferRange s.x.x0 := if_neg fun hin => h (of_decide_eq_true hin)

/-- Both checks passed: the latch, then the wait for the initiation byte. -/
theorem State.xmSendStart_of_fits (ho : s.ctrl.opened = true) (hfit : fits s.x.x0 s.x.x1.toNat) :
    s.xmSendStart = s.xmLatch.suspend .xmInit :=
  (s.inContext_of_opened _ ho).trans (s.withInput_of_fits _ hfit)

/-- A byte that chooses no mode ends the transfer (R193). -/
theorem State.xmInitByte_of_other {b : Byte} (hC : b ≠ 0x43#8) (hNak : b ≠ 0x15#8) :
    s.xmInitByte b = s.xmAbort .xmodemInitiationFailed (b.setWidth 32) :=
  (if_neg hC).trans (if_neg hNak)

theorem exec_xmSend_of_not_fits (ho : s.ctrl.opened = true) (hfit : ¬ fits s.x.x0 s.x.x1.toNat) :
    exec .xmSend s = .next (s.faulted 0x11#8 s.x.x0) := by
  have hstart : s.xmSendStart = s.raise .bufferRange s.x.x0 :=
    (s.inContext_of_opened _ ho).trans (s.withInput_of_not_fits _ hfit)
  refine congrArg Host.Outcome.next ?_
  rw [hstart]
  exact s.settle_raise .bufferRange s.x.x0

theorem exec_xmSend_of_rxq_nil (ho : s.ctrl.opened = true) (hfit : fits s.x.x0 s.x.x1.toNat) (hq : s.rxq = []) :
    exec .xmSend s = .next (s.xmLatch.waiting .xmInit) := by
  have hwait : (s.xmLatch.suspend .xmInit).contReady .xmInit = false := by simp [State.contReady, hq]
  refine congrArg Host.Outcome.next ?_
  rw [s.xmSendStart_of_fits ho hfit]
  exact State.settle_of_not_contReady _ .xmInit rfl hwait

theorem exec_xmSend_of_other_byte {b : Byte} {q : List Byte} (ho : s.ctrl.opened = true) (hfit : fits s.x.x0 s.x.x1.toNat)
    (hq : s.rxq = b :: q) (hu : s.unheld) (hC : b ≠ 0x43#8) (hNak : b ≠ 0x15#8) :
    exec .xmSend s = .next ((s.xmLatch.uncont.rxDrop 1).xmAbort .xmodemInitiationFailed (b.setWidth 32)) := by
  have hready : (s.xmLatch.suspend .xmInit).contReady .xmInit = true := by simp [State.contReady, hq]
  refine congrArg Host.Outcome.next ?_
  calc s.xmSendStart.settle
    _ = (s.xmLatch.suspend .xmInit).settle := congrArg State.settle (s.xmSendStart_of_fits ho hfit)
    _ = (s.xmLatch.uncont.resume .xmInit).settle := State.settle_of_contReady _ .xmInit rfl hu hready
    _ = ((s.xmLatch.uncont.rxDrop 1).xmInitByte b).settle :=
      congrArg State.settle (State.resume_xmInit_of_cons _ b q hq)
    _ = ((s.xmLatch.uncont.rxDrop 1).xmAbort .xmodemInitiationFailed (b.setWidth 32)).settle :=
      congrArg State.settle (State.xmInitByte_of_other _ hC hNak)
    _ = _ := State.settle_raise _ _ _

end XmSend

/-- Settles O31: the two checks in their order, the wait, and the abort. -/
theorem xmSendStarts : Obligations.XmSendStarts := by
  refine fun s => ⟨fun ho => exec_of_not_opened s .xmSend ho rfl, exec_xmSend_of_not_fits s, exec_xmSend_of_rxq_nil s,
    fun b q ho hfit hq hu hC hNak => ?abort⟩
  obtain rfl : s.rxq.drop 1 = q := congrArg (List.drop 1) hq
  exact exec_xmSend_of_other_byte s ho hfit hq hu hC hNak

/-- Settles O1: the words of thirteen instructions, read back (`decode_encode`), and a word that each of two formats rejects. -/
theorem decodeSampleWords : Obligations.DecodeSampleWords :=
  ⟨decode_encode (i := .ctxOpen) rfl, decode_encode (i := .rxRaw) rfl, decode_encode (i := .c16Updb 0x31#8) rfl,
    decode_encode (i := .c32Calc) rfl, decode_encode (i := .md5Updb 0x61#8) rfl, decode_encode (i := .shaUpdm) rfl,
    decode_encode (i := .xmPad 0x1A#8) rfl, decode_encode (i := .xmSend) rfl, decode_encode (i := .brNegWm) rfl,
    decode_encode (i := .lpEnc 0x32#8) rfl, decode_encode (i := .lpDec 0x01#8) rfl, decode_encode (i := .slCmd 0x13#8) rfl,
    decode_encode (i := .w21Chk) rfl, decode_of_nonzero_low_byte (i := .ctxOpen) (l := 0x01#8) rfl (by decide),
    decode_of_nonzero_flag_bits (l := 0x02#8) (by decide)⟩

/-- Settles O5: a legal word, presented to an idle block (`State.step_of_present_legal`). -/
theorem stepRunsDecodedInstruction : Obligations.StepRunsDecodedInstruction := fun s w rest _ => s.step_of_present_legal w rest

end Machine

end Sys2Proof
end

section
/-! The context and transport operations (O13 to O16). `RX.RAW` ends in one state wherever it ends well, at once or from its
wait: `State.rawReceived`, the meaning of the model once the awaited bytes are there (`State.rxRawReady_eq`). -/

namespace Sys2Proof.Machine

section Transport

variable (s : State)

/-! ### The checks of an output range (R62) -/

theorem State.withRange_of_fits (addr : Word) (n : Nat) (go : State → State) (h : fits addr n) :
    s.withRange addr n go = go s := if_pos (decide_eq_true h)

theorem State.withRange_of_not_fits (addr : Word) (n : Nat) (go : State → State) (h : ¬ fits addr n) :
    s.withRange addr n go = s.raise .bufferRange addr := if_neg fun hin => h (of_decide_eq_true hin)

theorem State.memWrite_of_fits (addr : Word) (bs : List Byte) (fail ok : State → State) (h : fits addr bs.length) :
    s.memWrite addr bs fail ok = ok (s.stored addr bs) := if_pos (decide_eq_true h)

/-! ### A write that ends its operation (R106, R340) -/

theorem State.txFinal_nil : s.txFinal [] = s.succeeded := rfl

theorem State.txFinal_of_write_fails {bs : List Byte} (hne : bs ≠ []) (hw : s.env.writeFails = true) :
    s.txFinal bs = s.wrote.faulted 0x02#8 0#32 := by
  cases bs with
  | nil => exact absurd rfl hne
  | cons b bs => exact if_pos hw

theorem State.txFinal_of_write_passes {bs : List Byte} (hne : bs ≠ []) (hw : s.env.writeFails = false) :
    s.txFinal bs = State.succeeded { s.wrote with tx := s.tx ++ bs } := by
  cases bs with
  | nil => exact absurd rfl hne
  | cons b bs => exact s.txPut_of_write_passes b bs _ _ hw

/-! ### `RX.RAW` (R105) -/

/-- `s` after `RX.RAW` has taken the `x[1]` bytes asked for (R105, R299). -/
def State.rawReceived (s : State) : State :=
  State.succeeded { s with
    pbuf := s.pbuf.storeBytes s.x.x3.toNat (s.rxq.take s.x.x1.toNat)
    rxq := s.rxq.drop s.x.x1.toNat
    x := { s.x with x6 := s.x.x1 } }

/-- The range is checked again when the bytes are stored, and a range that fits passes. -/
theorem State.rxRawReady_eq (hfit : fits s.x.x3 s.x.x1.toNat) (hlen : s.x.x1.toNat ≤ s.rxq.length) :
    s.rxRawReady = s.rawReceived := by
  have htaken : (s.rxq.take s.x.x1.toNat).length = s.x.x1.toNat := List.length_take_of_le hlen
  exact State.memWrite_of_fits _ _ _ _ _ (htaken.symm ▸ hfit)

/-- Both checks passed: the wait, unless the bytes are already there. -/
theorem State.rxRawStart_of_fits (ho : s.ctrl.opened = true) (hfit : fits s.x.x3 s.x.x1.toNat) :
    s.rxRawStart = s.suspendUnless (s.x.x1.toNat ≤ s.rxq.length) .rxRaw State.rxRawReady :=
  (s.inContext_of_opened _ ho).trans (s.withRange_of_fits _ _ _ hfit)

theorem exec_rxRaw_of_not_fits (ho : s.ctrl.opened = true) (hfit : ¬ fits s.x.x3 s.x.x1.toNat) :
    exec .rxRaw s = .next (s.faulted 0x11#8 s.x.x3) :=
  congrArg Host.Outcome.next ((s.inContext_of_opened _ ho).trans (s.withRange_of_not_fits _ _ _ hfit))

/-- The bytes are already there: the operation ends without waiting. -/
theorem exec_rxRaw_of_queued (ho : s.ctrl.opened = true) (hfit : fits s.x.x3 s.x.x1.toNat)
    (hlen : s.x.x1.toNat ≤ s.rxq.length) : exec .rxRaw s = .next s.rawReceived := by
  refine congrArg Host.Outcome.next ?_
  calc s.rxRawStart
    _ = s.suspendUnless (s.x.x1.toNat ≤ s.rxq.length) .rxRaw State.rxRawReady := s.rxRawStart_of_fits ho hfit
    _ = s.rxRawReady := if_pos (decide_eq_true hlen)
    _ = s.rawReceived := s.rxRawReady_eq hfit hlen

/-- Bytes are missing: the operation waits. -/
theorem exec_rxRaw_of_not_queued (ho : s.ctrl.opened = true) (hfit : fits s.x.x3 s.x.x1.toNat)
    (hlen : s.rxq.length < s.x.x1.toNat) : exec .rxRaw s = .next (s.waiting .rxRaw) := by
  refine congrArg Host.Outcome.next ((s.rxRawStart_of_fits ho hfit).trans (if_neg fun h => ?_))
  have hle : s.x.x1.toNat ≤ s.rxq.length := of_decide_eq_true h
  omega

/-- A turn of another agent, after which the awaited bytes are there, ends the wait well. -/
theorem State.step_of_rxRaw_met (u : State) (hc : s.cont = some .rxRaw) (hu : s.agentMoved u)
    (hfit : fits u.x.x3 u.x.x1.toNat) (hlen : u.x.x1.toNat ≤ u.rxq.length) : step s = .next u.rawReceived := by
  rw [s.step_of_agentMoved u .rxRaw hc hu (u.contReady_rxRaw_iff.2 hlen)]
  refine congrArg Host.Outcome.next ?_
  calc (u.uncont.resume .rxRaw).settle
    _ = u.uncont.rawReceived.settle := congrArg State.settle (u.uncont.rxRawReady_eq hfit hlen)
    _ = u.rawReceived := State.settle_of_idle _ rfl

/-- `Timeout` while bytes are missing ends the wait: `x[1]` in `INFO`, nothing taken (R105). -/
theorem State.step_of_rxRaw_timeout (rest : List Turn) (hc : s.cont = some .rxRaw) (hlen : s.rxq.length < s.x.x1.toNat)
    (ht : s.turns = .timeout :: rest) : step s = .next (State.faulted { s with turns := rest } 0x0E#8 s.x.x1) := by
  have hmissing : s.contReady .rxRaw = false := decide_eq_false (by omega)
  rw [s.step_of_timeout_not_contReady .rxRaw rest hc ht hmissing]
  exact congrArg Host.Outcome.next (State.settle_raise _ .timeout s.x.x1)

end Transport

/-- Settles O16: the two checks in their order, the bytes at once or after the wait (`State.rawReceived`), the `Timeout`. -/
theorem rxRawReceives : Obligations.RxRawReceives := by
  refine ⟨decode_encode (i := .rxRaw) rfl, fun s => ⟨fun ho => exec_of_not_opened s .rxRaw ho rfl, exec_rxRaw_of_not_fits s,
    fun ho hfit hlen => ⟨_, Memory.holds_storeBytes _ _ _, exec_rxRaw_of_queued s ho hfit hlen⟩, exec_rxRaw_of_not_queued s,
    fun b rest hc hfit hlen ht hh => ?lastByte, s.step_of_rxRaw_timeout⟩⟩
  case lastByte =>
    have hall : s.x.x1.toNat = (s.rxq ++ [b]).length := by simpa using hlen
    have htake : (s.rxq ++ [b]).take s.x.x1.toNat = s.rxq ++ [b] := List.take_of_length_le hall.ge
    have hdrop : (s.rxq ++ [b]).drop s.x.x1.toNat = [] := List.drop_of_length_le hall.ge
    refine ⟨_, Memory.holds_storeBytes _ _ _, ?_⟩
    rw [s.step_of_rxRaw_met _ hc (s.agentMoved_of_peer b rest ht hh) hfit hall.le]
    simp only [State.rawReceived, htake, hdrop]

/-! ### `CTX.OPEN`, `CTX.CLOSE`, `RX.DRAIN`, `TX.RAW` (R101, R102, R103, R106) -/

section Context

variable (s : State)

theorem exec_ctxOpen_of_connect_fails (h : s.env.connectFails = true) :
    exec .ctxOpen s = .next (s.contextReset.connectDrawn.raise .transportOpen 0#32) :=
  congrArg Host.Outcome.next (if_pos h)

theorem exec_ctxOpen_of_connect_passes (h : s.env.connectFails = false) :
    exec .ctxOpen s = .next (s.contextReset.connectDrawn.setOpened true).complete :=
  congrArg Host.Outcome.next (if_neg (ne_true_of_eq_false h))

theorem exec_ctxClose : exec .ctxClose s = .next ((s.setOpened false).rxClear).complete := rfl

theorem exec_rxDrain_of_opened (ho : s.ctrl.opened = true) :
    exec .rxDrain s = .next ((s.setX6 (BitVec.ofNat 32 s.rxq.length)).rxClear).complete :=
  congrArg Host.Outcome.next (s.inContext_of_opened _ ho)

theorem exec_txRaw_of_not_fits (ho : s.ctrl.opened = true) (hfit : ¬ fits s.x.x0 s.x.x1.toNat) :
    exec .txRaw s = .next (s.faulted 0x11#8 s.x.x0) :=
  congrArg Host.Outcome.next ((s.inContext_of_opened _ ho).trans (s.withInput_of_not_fits _ hfit))

/-- Both checks passed: the bytes of the range, in one write that ends the operation. -/
theorem exec_txRaw_of_shows {m : List Byte} (ho : s.ctrl.opened = true) (hfit : fits s.x.x0 s.x.x1.toNat)
    (hm : s.pbuf.shows s.x.x0.toNat s.x.x1.toNat m) : exec .txRaw s = .next (s.txFinal m) := by
  refine congrArg Host.Outcome.next ?_
  calc s.inContext (fun t => t.withInput t.txFinal)
    _ = s.withInput s.txFinal := s.inContext_of_opened _ ho
    _ = s.txFinal (s.pbuf.bytes s.x.x0.toNat s.x.x1.toNat) := s.withInput_of_fits _ hfit
    _ = s.txFinal m := congrArg s.txFinal (Memory.bytes_of_shows _ _ _ _ hm)

end Context

/-- Settles O13: the reset comes before `connect()`, whose two answers give the fault and the open context. -/
theorem ctxOpenResets : Obligations.CtxOpenResets :=
  ⟨decode_encode (i := .ctxOpen) rfl,
    fun s => ⟨s.contextReset.connectDrawn, rfl, exec_ctxOpen_of_connect_fails s, exec_ctxOpen_of_connect_passes s⟩⟩

/-- Settles O14: `CTX.CLOSE` has no check to fail (`exec_ctxClose`), `RX.DRAIN` the one of `CTRL.OPEN`. -/
theorem ctxCloseAndDrain : Obligations.CtxCloseAndDrain :=
  ⟨decode_encode (i := .ctxClose) rfl, decode_encode (i := .rxDrain) rfl,
    fun s => ⟨exec_ctxClose s, fun ho => exec_of_not_opened s .rxDrain ho rfl, exec_rxDrain_of_opened s⟩⟩

/-- Settles O15: the two checks in their order, then no write where the range is empty, else one that passes or fails. -/
theorem txRawTransmits : Obligations.TxRawTransmits := by
  refine ⟨decode_encode (i := .txRaw) rfl, fun s => ⟨fun ho => exec_of_not_opened s .txRaw ho rfl, exec_txRaw_of_not_fits s,
    fun m ho hfit hm => ?write⟩⟩
  case write =>
    have hlen : m.length = s.x.x1.toNat := hm.1
    have hne : s.x.x1 ≠ 0#32 → m ≠ [] := by
      rintro hx rfl
      exact hx (BitVec.eq_of_toNat_eq hlen.symm)
    rw [exec_txRaw_of_shows s ho hfit hm]
    refine ⟨fun hx => ?empty, fun hx hw => congrArg _ (s.txFinal_of_write_fails (hne hx) hw),
      fun hx hw => congrArg _ (s.txFinal_of_write_passes (hne hx) hw)⟩
    case empty =>
      obtain rfl : m = [] := List.eq_nil_of_length_eq_zero (hlen.trans (congrArg BitVec.toNat hx))
      exact congrArg _ s.txFinal_nil

end Sys2Proof.Machine
end

section
/-! The CRC generator (O17 to O21). A bit step distributes over exclusive or (`crc16Bit_xor`, `crc32Bit_xor`), and so do the eight
of a byte step. That splits a byte step in two: the byte that is shifted out, which picks the table entry, and the other bits,
which only move, because none of them leaves the register in eight steps. -/

namespace Sys2Proof.Machine

/-! ### A bit step (R121, R134) -/

theorem crc16Bit_of_not_msb {c : Half} (h : c.msb = false) : crc16Bit c = c <<< 1 := if_neg (ne_true_of_eq_false h)

theorem crc32Bit_of_not_low {c : Word} (h : c.getLsbD 0 = false) : crc32Bit c = c >>> 1 := if_neg (ne_true_of_eq_false h)

/-- Two carries cancel as the two polynomials they bring in do. -/
theorem xor_of_carries {w : Nat} (p q : Bool) (a b poly : BitVec w) :
    (if p ^^ q then (a ^^^ b) ^^^ poly else a ^^^ b) =
      (if p then a ^^^ poly else a) ^^^ (if q then b ^^^ poly else b) := by
  cases p <;> cases q
  case false.false => rfl
  case false.true => exact BitVec.xor_assoc a b poly
  case true.false =>
    change (a ^^^ b) ^^^ poly = (a ^^^ poly) ^^^ b
    ac_rfl
  case true.true =>
    calc a ^^^ b
      _ = (a ^^^ b) ^^^ (poly ^^^ poly) := by rw [BitVec.xor_self, BitVec.xor_zero]
      _ = (a ^^^ poly) ^^^ (b ^^^ poly) := by ac_rfl

theorem crc16Bit_xor (c d : Half) : crc16Bit (c ^^^ d) = crc16Bit c ^^^ crc16Bit d := by
  unfold crc16Bit
  rw [BitVec.msb_xor, BitVec.shiftLeft_xor_distrib]
  exact xor_of_carries _ _ _ _ _

theorem crc32Bit_xor (c d : Word) : crc32Bit (c ^^^ d) = crc32Bit c ^^^ crc32Bit d := by
  unfold crc32Bit
  rw [BitVec.getLsbD_xor, BitVec.ushiftRight_xor_distrib]
  exact xor_of_carries _ _ _ _ _

/-! ### The eight bit steps of a byte step -/

theorem crc16Step_eq_iterate (c : Half) (b : Byte) : crc16Step c b = crc16Bit^[8] (c ^^^ (b.setWidth 16 <<< 8)) := rfl

theorem crc32Step_eq_iterate (c : Word) (b : Byte) : crc32Step c b = crc32Bit^[8] (c ^^^ b.setWidth 32) := rfl

theorem crc16Bit_iterate_xor (n : Nat) (c d : Half) : crc16Bit^[n] (c ^^^ d) = crc16Bit^[n] c ^^^ crc16Bit^[n] d :=
  Function.Semiconj₂.iterate crc16Bit_xor n c d

theorem crc32Bit_iterate_xor (n : Nat) (c d : Word) : crc32Bit^[n] (c ^^^ d) = crc32Bit^[n] c ^^^ crc32Bit^[n] d :=
  Function.Semiconj₂.iterate crc32Bit_xor n c d

/-- The low byte of `CRC16` does not reach bit 15 before the eighth bit step. -/
theorem crc16Bit_iterate_low_byte (l : Byte) (n : Nat) (hn : n ≤ 8) :
    crc16Bit^[n] (l.setWidth 16) = l.setWidth 16 <<< n := by
  induction n with
  | zero => exact (BitVec.shiftLeft_zero _).symm
  | succ n ih =>
    have hmsb : (l.setWidth 16 <<< n).msb = false := by
      have habove : l.getLsbD (15 - n) = false := l.getLsbD_of_ge _ (by omega)
      simp [BitVec.msb_eq_getLsbD_last, habove]
    rw [Function.iterate_succ_apply', ih (by omega), crc16Bit_of_not_msb hmsb, BitVec.shiftLeft_add]

/-- The three high bytes of `CRC32` do not reach bit 0 before the eighth bit step. -/
theorem crc32Bit_iterate_high_bytes (h : Word) (n : Nat) (hn : n ≤ 8) : crc32Bit^[n] (h <<< 8) = h <<< 8 >>> n := by
  induction n with
  | zero => exact (BitVec.ushiftRight_zero _).symm
  | succ n ih =>
    have hlow : (h <<< 8 >>> n).getLsbD 0 = false := by
      have hbelow : n < 8 := by omega
      simp [hbelow]
    rw [Function.iterate_succ_apply', ih (by omega), crc32Bit_of_not_low hlow, BitVec.shiftRight_add]

/-! ### The table forms (R124, R135) -/

/-- The remainder with a byte absorbed: the low byte, and the index of the table entry at the top. -/
theorem half_xor_byte (c : Half) (b : Byte) :
    c ^^^ (b.setWidth 16 <<< 8) =
      (c.setWidth 8).setWidth 16 ^^^ (((c >>> 8).setWidth 8 ^^^ b).setWidth 16 <<< 8) := by
  apply BitVec.eq_of_getLsbD_eq
  intro k hk
  by_cases hlow : k < 8
  · simp [hlow, hk]
  · have htop : k - 8 < 8 := by omega
    have hback : 8 + (k - 8) = k := by omega
    simp [hlow, hk, htop, hback]

/-- The remainder with a byte absorbed: the high bytes, and the index of the table entry at the bottom. -/
theorem word_xor_byte (c : Word) (b : Byte) :
    c ^^^ b.setWidth 32 = (c >>> 8) <<< 8 ^^^ (c.setWidth 8 ^^^ b).setWidth 32 := by
  apply BitVec.eq_of_getLsbD_eq
  intro k hk
  by_cases hlow : k < 8
  · simp [hlow, hk]
  · have habove : b.getLsbD k = false := b.getLsbD_of_ge k (by omega)
    have hback : 8 + (k - 8) = k := by omega
    simp [hlow, hk, hback, habove]

theorem low_byte_shiftLeft (c : Half) : (c.setWidth 8).setWidth 16 <<< 8 = c <<< 8 := by
  apply BitVec.eq_of_getLsbD_eq
  intro k hk
  have hlow : k - 8 < 8 := by omega
  have hin : k - 8 < 16 := by omega
  simp [hlow, hin]

theorem high_bytes_ushiftRight (c : Word) : (c >>> 8) <<< 8 >>> 8 = c >>> 8 := by
  apply BitVec.eq_of_getLsbD_eq
  intro k _
  have hout : c.getLsbD (8 + k) = true → 8 + k < 32 := BitVec.lt_of_getLsbD
  simpa using hout

theorem crc16Step_eq_table (c : Half) (b : Byte) :
    crc16Step c b = (c <<< 8) ^^^ crc16Step 0#16 ((c >>> 8).setWidth 8 ^^^ b) := by
  have hentry (i : Byte) : crc16Bit^[8] (i.setWidth 16 <<< 8) = crc16Step 0#16 i := by
    rw [crc16Step_eq_iterate, BitVec.zero_xor]
  rw [crc16Step_eq_iterate c b, half_xor_byte, crc16Bit_iterate_xor, crc16Bit_iterate_low_byte _ 8 le_rfl,
    low_byte_shiftLeft, hentry]

theorem crc32Step_eq_table (c : Word) (b : Byte) :
    crc32Step c b = (c >>> 8) ^^^ crc32Step 0#32 (c.setWidth 8 ^^^ b) := by
  have hentry (i : Byte) : crc32Bit^[8] (i.setWidth 32) = crc32Step 0#32 i := by
    rw [crc32Step_eq_iterate, BitVec.zero_xor]
  rw [crc32Step_eq_iterate c b, word_xor_byte, crc32Bit_iterate_xor, crc32Bit_iterate_high_bytes _ 8 le_rfl,
    high_bytes_ushiftRight, hentry]

/-- Settles O20: the bits that stay in the register only move, and the byte shifted out picks the entry; four entries by
evaluation. -/
theorem crcTableForm : Obligations.CrcTableForm :=
  ⟨crc16Step_eq_table, crc32Step_eq_table, by decide, by decide, by decide, by decide⟩

/-! ### Messages (R122, R125, R134, R142) -/

theorem crc16_append (i : Half) (a b : List Byte) : crc16 i (a ++ b) = crc16 (crc16 i a) b := List.foldl_append

theorem crc32_append (i : Word) (a b : List Byte) : crc32 i (a ++ b) = crc32 (crc32 i a) b := List.foldl_append

theorem crc32Step_zero : crc32Step 0#32 0x00#8 = 0#32 := by decide

theorem crc32_zero_replicate (n : Nat) : crc32 0#32 (List.replicate n 0x00#8) = 0#32 := by
  induction n with
  | zero => rfl
  | succ n ih =>
    calc crc32 0#32 (List.replicate (n + 1) 0x00#8)
      _ = crc32 (crc32Step 0#32 0x00#8) (List.replicate n 0x00#8) := rfl
      _ = crc32 0#32 (List.replicate n 0x00#8) := by rw [crc32Step_zero]
      _ = 0#32 := ih

/-- Settles O21: chaining is `List.foldl_append`, zero bytes keep a zero remainder, and the kernel evaluates the check values. -/
theorem crcLaws : Obligations.CrcLaws :=
  ⟨fun i a b => (crc16_append i a b).symm, fun i a b => (crc32_append i a b).symm, fun _ => rfl, crc32_zero_replicate,
    by decide +kernel, by decide +kernel, by decide +kernel⟩

/-! ### The checks of the streaming and the one-shot operations (R62, R128) -/

section Ops

variable (s : State)

theorem State.withV16_of_valid (go : State → State) (h : s.valid.v16 = true) : s.withV16 go = go s := if_pos h

theorem State.withV16_of_not_valid (go : State → State) (h : s.valid.v16 = false) : s.withV16 go = s.faulted 0x15#8 1#32 :=
  if_neg (ne_true_of_eq_false h)

theorem State.withV32_of_valid (go : State → State) (h : s.valid.v32 = true) : s.withV32 go = go s := if_pos h

theorem State.withV32_of_not_valid (go : State → State) (h : s.valid.v32 = false) : s.withV32 go = s.faulted 0x15#8 2#32 :=
  if_neg (ne_true_of_eq_false h)

theorem State.withInput_of_shows (go : List Byte → State) {m : List Byte} (hfit : fits s.x.x0 s.x.x1.toNat)
    (hm : s.pbuf.shows s.x.x0.toNat s.x.x1.toNat m) : s.withInput go = go m :=
  (s.withInput_of_fits go hfit).trans (congrArg go (Memory.bytes_of_shows _ _ _ _ hm))

/-! ### Streaming (R126 to R131, R137 to R140) -/

theorem exec_c16Updb_of_valid (h : s.valid.v16 = true) (b : Byte) :
    exec (.c16Updb b) s = .next (s.setCrc16 (crc16Step s.crc16 b)).complete :=
  congrArg Host.Outcome.next (s.withV16_of_valid _ h)

theorem exec_c32Updb_of_valid (h : s.valid.v32 = true) (b : Byte) :
    exec (.c32Updb b) s = .next (s.setCrc32 (crc32Step s.crc32 b)).complete :=
  congrArg Host.Outcome.next (s.withV32_of_valid _ h)

theorem exec_c16Rd_of_valid (h : s.valid.v16 = true) : exec .c16Rd s = .next (s.setX6 (s.crc16.setWidth 32)).complete :=
  congrArg Host.Outcome.next (s.withV16_of_valid _ h)

theorem exec_c32Rd_of_valid (h : s.valid.v32 = true) : exec .c32Rd s = .next (s.setX6 s.crc32).complete :=
  congrArg Host.Outcome.next (s.withV32_of_valid _ h)

theorem exec_c16Updm_of_valid (h : s.valid.v16 = true) :
    exec .c16Updm s = .next (s.withInput fun m => (s.setCrc16 (crc16 s.crc16 m)).complete) :=
  congrArg Host.Outcome.next (s.withV16_of_valid _ h)

theorem exec_c32Updm_of_valid (h : s.valid.v32 = true) :
    exec .c32Updm s = .next (s.withInput fun m => (s.setCrc32 (crc32 s.crc32 m)).complete) :=
  congrArg Host.Outcome.next (s.withV32_of_valid _ h)

end Ops

/-- Settles O17: the two `INIT` operations check nothing; the others check `V16`, and `C16.UPDM` then its range. -/
theorem crc16Streaming : Obligations.Crc16Streaming := by
  refine ⟨decode_encode (i := .c16Initf) rfl, decode_encode (i := .c16Initx) rfl,
    fun b => decode_encode (i := .c16Updb b) rfl, decode_encode (i := .c16Updm) rfl, decode_encode (i := .c16Rd) rfl,
    fun s => ⟨rfl, rfl, fun h b => ?notValid, fun h => ?valid⟩⟩
  case notValid =>
    refine ⟨?_, ?_, ?_⟩
    all_goals exact congrArg Host.Outcome.next (s.withV16_of_not_valid _ h)
  case valid =>
    have hupdm := exec_c16Updm_of_valid s h
    exact ⟨exec_c16Updb_of_valid s h, exec_c16Rd_of_valid s h,
      fun hfit => hupdm.trans (congrArg Host.Outcome.next (s.withInput_of_not_fits _ hfit)),
      fun _ hfit hm => hupdm.trans (congrArg Host.Outcome.next (s.withInput_of_shows _ hfit hm))⟩

/-- Settles O18: `C32.INIT` checks nothing; the others check `V32`, and `C32.UPDM` then its range. -/
theorem crc32Streaming : Obligations.Crc32Streaming := by
  refine ⟨decode_encode (i := .c32Init) rfl, fun b => decode_encode (i := .c32Updb b) rfl, decode_encode (i := .c32Updm) rfl,
    decode_encode (i := .c32Rd) rfl, fun s => ⟨rfl, fun h b => ?notValid, fun h => ?valid⟩⟩
  case notValid =>
    refine ⟨?_, ?_, ?_⟩
    all_goals exact congrArg Host.Outcome.next (s.withV32_of_not_valid _ h)
  case valid =>
    have hupdm := exec_c32Updm_of_valid s h
    exact ⟨exec_c32Updb_of_valid s h, exec_c32Rd_of_valid s h,
      fun hfit => hupdm.trans (congrArg Host.Outcome.next (s.withInput_of_not_fits _ hfit)),
      fun _ hfit hm => hupdm.trans (congrArg Host.Outcome.next (s.withInput_of_shows _ hfit hm))⟩

/-! ### One-shot (R132, R133, R141) -/

/-- Settles O19: the range is the only check, and `x[6]` the only operand register written. -/
theorem crcOneShot : Obligations.CrcOneShot := by
  refine ⟨decode_encode (i := .c16Calcf) rfl, decode_encode (i := .c16Calcx) rfl, decode_encode (i := .c32Calc) rfl,
    fun s => ⟨fun hfit i hi => ?notFits, fun m hfit hm => ?fits⟩⟩
  case notFits =>
    rcases hi with rfl | rfl | rfl
    all_goals exact congrArg Host.Outcome.next (s.withInput_of_not_fits _ hfit)
  case fits =>
    refine ⟨?_, ?_, ?_⟩
    all_goals exact congrArg Host.Outcome.next (s.withInput_of_shows _ hfit hm)

end Sys2Proof.Machine
end

section
/-! The MD5 unit (O22 to O24). What a digest absorbs goes through `md5Absorb`, which takes a message of whole blocks in two pieces
(`md5Absorb_append`); so `Md5Unit.Absorbed` is kept by one byte, whether it completes a block or not (`Md5Unit.Absorbed.absorb`),
and by a byte string (`Md5Unit.Absorbed.foldl_absorb`), and the digest that `MD5.FIN` finishes is `md5` of the message
(`Md5Unit.Absorbed.finish`). The lemmas on 64-byte blocks speak of no digest in particular. -/

namespace Sys2Proof.Machine

/-! ### 64-byte blocks (R156, R161) -/

theorem blocks64_append {n : Nat} {a : List Byte} (k : Nat) (b : List Byte) (ha : a.length = 64 * n) :
    blocks64 (n + k) (a ++ b) = blocks64 n a ++ blocks64 k b := by
  induction n generalizing a with
  | zero =>
    obtain rfl : a = [] := List.eq_nil_of_length_eq_zero ha
    rw [Nat.zero_add]
    rfl
  | succ n ih =>
    have hblock : 64 ≤ a.length := by omega
    have hrest : (a.drop 64).length = 64 * n := by rw [List.length_drop]; omega
    rw [Nat.succ_add]
    simp only [blocks64, List.take_append_of_le_length hblock, List.drop_append_of_le_length hblock, ih hrest,
      List.cons_append]

/-- A fold over the blocks of a message goes over the first blocks, then over the others. -/
theorem foldl_blocks64_append {σ : Type} (f : σ → List Byte → σ) (w : σ) {a : List Byte} (b : List Byte)
    (ha : 64 ∣ a.length) :
    (blocks64 ((a ++ b).length / 64) (a ++ b)).foldl f w =
      (blocks64 (b.length / 64) b).foldl f ((blocks64 (a.length / 64) a).foldl f w) := by
  obtain ⟨n, hn⟩ := ha
  have hcount : (a ++ b).length / 64 = n + b.length / 64 := by rw [List.length_append]; omega
  have hfirst : a.length / 64 = n := by omega
  rw [hcount, hfirst, blocks64_append _ b hn, List.foldl_append]

theorem blocks64_one {blk : List Byte} (h : blk.length = 64) : blocks64 (blk.length / 64) blk = [blk] := by
  rw [h]
  exact congrArg (· :: []) (List.take_of_length_le h.le)

/-- The blocks a message completes are whole. -/
theorem dvd_length_take_blocks (m : List Byte) : 64 ∣ (m.take (64 * (m.length / 64))).length :=
  ⟨m.length / 64, by rw [List.length_take]; omega⟩

/-- A byte that completes no block joins the rest of the message. -/
theorem take_drop_blocks_concat {m : List Byte} (b : Byte) (h : m.length % 64 ≠ 63) :
    (m ++ [b]).take (64 * ((m ++ [b]).length / 64)) = m.take (64 * (m.length / 64)) ∧
      (m ++ [b]).drop (64 * ((m ++ [b]).length / 64)) = m.drop (64 * (m.length / 64)) ++ [b] := by
  have hcount : (m ++ [b]).length / 64 = m.length / 64 := by rw [List.length_append, List.length_singleton]; omega
  have hle : 64 * (m.length / 64) ≤ m.length := by omega
  rw [hcount, List.take_append_of_le_length hle, List.drop_append_of_le_length hle]
  exact ⟨rfl, rfl⟩

/-- A byte that completes a block leaves no rest. -/
theorem take_drop_blocks_concat_of_full {m : List Byte} (b : Byte) (h : m.length % 64 = 63) :
    (m ++ [b]).take (64 * ((m ++ [b]).length / 64)) =
        m.take (64 * (m.length / 64)) ++ (m.drop (64 * (m.length / 64)) ++ [b]) ∧
      (m ++ [b]).drop (64 * ((m ++ [b]).length / 64)) = [] := by
  have hall : (m ++ [b]).length ≤ 64 * ((m ++ [b]).length / 64) := by
    rw [List.length_append, List.length_singleton]; omega
  rw [List.take_of_length_le hall, List.drop_of_length_le hall, ← List.append_assoc, List.take_append_drop]
  exact ⟨rfl, rfl⟩

/-- A digest buffer that `len` bytes have filled, with one more byte in its place (R161). -/
def bufPut (buf : Vector Byte 64) (len : Word) (b : Byte) : Vector Byte 64 :=
  buf.set (len.toNat % 64) b (Nat.mod_lt _ (by decide))

/-- The meaningful part of the buffer grows by that byte. -/
theorem take_bufPut (buf : Vector Byte 64) (len : Word) (b : Byte) :
    (bufPut buf len b).toList.take (len.toNat % 64 + 1) = buf.toList.take (len.toNat % 64) ++ [b] := by
  have hlt : len.toNat % 64 < (buf.toList.set (len.toNat % 64) b).length := by
    rw [List.length_set, Vector.length_toList]
    exact Nat.mod_lt _ (by decide)
  rw [bufPut, Vector.toList_set, ← List.take_append_getElem hlt, List.take_set_of_le (Nat.le_refl _), List.getElem_set_self]

/-! ### MD5 of a message in pieces (R156, R158) -/

theorem md5Absorb_append (w : Md5Words) {a : List Byte} (b : List Byte) (ha : 64 ∣ a.length) :
    md5Absorb w (a ++ b) = md5Absorb (md5Absorb w a) b := foldl_blocks64_append md5Compress w b ha

theorem md5Absorb_block (w : Md5Words) {blk : List Byte} (h : blk.length = 64) : md5Absorb w blk = md5Compress w blk := by
  unfold md5Absorb
  rw [blocks64_one h]
  rfl

theorem md5_length (m : List Byte) : (md5 m).length = 16 := rfl

/-! ### The invariant of a streaming digest (R165) -/

section Absorbed

variable {u : Md5Unit} {m : List Byte}

theorem Md5Unit.absorbed_nil (buf : Vector Byte 64) : Md5Unit.Absorbed ⟨md5Init, buf, 0#32⟩ [] := ⟨rfl, rfl, rfl⟩

theorem Md5Unit.absorb_of_not_full (u : Md5Unit) (b : Byte) (h : (u.len + 1#32).toNat % 64 ≠ 0) :
    u.absorb b = ⟨u.words, bufPut u.buf u.len b, u.len + 1#32⟩ := if_neg h

theorem Md5Unit.absorb_of_full (u : Md5Unit) (b : Byte) (h : (u.len + 1#32).toNat % 64 = 0) :
    u.absorb b = ⟨md5Compress u.words (bufPut u.buf u.len b).toList, bufPut u.buf u.len b, u.len + 1#32⟩ := if_pos h

/-- `MD5_BUF` with one more byte shows the rest of the message with that byte. -/
theorem Md5Unit.Absorbed.bufPut_shows_rest (h : u.Absorbed m) (b : Byte) :
    (bufPut u.buf u.len b).toList.take (m.length % 64 + 1) = m.drop (64 * (m.length / 64)) ++ [b] := by
  rw [← h.buf, ← h.len]
  exact take_bufPut _ _ _

/-- One byte, and `MD5_LEN` below its wrap: the buffer takes it, and where it is then full, the block is compressed (R161). -/
theorem Md5Unit.Absorbed.absorb (h : u.Absorbed m) (b : Byte) (hm : m.length + 1 < 2 ^ 32) :
    (u.absorb b).Absorbed (m ++ [b]) := by
  have hlen : (u.len + 1#32).toNat = (m ++ [b]).length := by
    rw [BitVec.toNat_add_of_lt (h.len.symm ▸ hm), h.len, List.length_append]
    rfl
  have hsucc : (m ++ [b]).length = m.length + 1 := List.length_append
  by_cases hfull : m.length % 64 = 63
  case neg =>
    obtain ⟨htake, hdrop⟩ := take_drop_blocks_concat b hfull
    have hmod : (m ++ [b]).length % 64 = m.length % 64 + 1 := by omega
    rw [u.absorb_of_not_full b (by omega)]
    exact ⟨hlen, htake ▸ h.words, by rw [hmod, hdrop]; exact h.bufPut_shows_rest b⟩
  case pos =>
    obtain ⟨htake, hdrop⟩ := take_drop_blocks_concat_of_full b hfull
    have hblock : (bufPut u.buf u.len b).toList = m.drop (64 * (m.length / 64)) ++ [b] := by
      rw [← h.bufPut_shows_rest b, hfull, List.take_of_length_le (by simp)]
    have hblock_length : (m.drop (64 * (m.length / 64)) ++ [b]).length = 64 := by
      rw [List.length_append, List.length_drop, List.length_singleton]
      omega
    have hmod : (m ++ [b]).length % 64 = 0 := by omega
    rw [u.absorb_of_full b (hlen ▸ hmod)]
    refine ⟨hlen, ?words, by rw [hmod, hdrop]; rfl⟩
    case words =>
      rw [htake, md5Absorb_append _ _ (dvd_length_take_blocks m), md5Absorb_block _ hblock_length, ← h.words, ← hblock]

theorem Md5Unit.Absorbed.foldl_absorb (h : u.Absorbed m) (p : List Byte) (hp : m.length + p.length < 2 ^ 32) :
    (p.foldl Md5Unit.absorb u).Absorbed (m ++ p) := by
  induction p generalizing u m with
  | nil => simpa using h
  | cons b p ih =>
    rw [List.length_cons] at hp
    have hrest := ih (h.absorb b (by omega)) (by rw [List.length_append, List.length_singleton]; omega)
    rwa [List.append_assoc] at hrest

/-- The meaningful part of `MD5_BUF` and the padding complete the padded message (R158). -/
theorem Md5Unit.Absorbed.finish (h : u.Absorbed m) : md5Digest (md5Absorb u.words u.tail) = md5 m := by
  have htail : u.tail = m.drop (64 * (m.length / 64)) ++ md5PadTail m.length := by
    unfold Md5Unit.tail
    rw [h.len, h.buf]
  refine congrArg md5Digest ?_
  calc md5Absorb u.words u.tail
    _ = md5Absorb (md5Absorb md5Init (m.take (64 * (m.length / 64)))) u.tail := by rw [h.words]
    _ = md5Absorb md5Init (m.take (64 * (m.length / 64)) ++ u.tail) :=
      (md5Absorb_append _ _ (dvd_length_take_blocks m)).symm
    _ = md5Absorb md5Init (md5Pad m) := by rw [htail, ← List.append_assoc, List.take_append_drop]; rfl

end Absorbed

/-! ### The checks (R159, R160) and the operations (R157 to R163) -/

section Ops

variable (s : State)

theorem State.withVmd5_of_valid (go : State → State) (h : s.valid.vmd5 = true) : s.withVmd5 go = go s := if_pos h

theorem State.withVmd5_of_not_valid (go : State → State) (h : s.valid.vmd5 = false) : s.withVmd5 go = s.faulted 0x15#8 3#32 :=
  if_neg (ne_true_of_eq_false h)

theorem State.withMd5Room_of_room (n : Nat) (go : State → State) (h : s.md5.len.toNat + n ≤ 2 ^ 24) :
    s.withMd5Room n go = go s := if_neg h.not_gt

theorem State.withMd5Room_of_no_room (n : Nat) (go : State → State) (h : 2 ^ 24 < s.md5.len.toNat + n) :
    s.withMd5Room n go = s.faulted 0x12#8 3#32 := if_pos h

theorem exec_md5Init :
    exec .md5Init s = .next ((s.setMd5 ⟨md5Init, s.md5.buf, 0#32⟩).setVmd5 true).complete := rfl

theorem exec_md5Updb_of_valid (h : s.valid.vmd5 = true) (b : Byte) :
    exec (.md5Updb b) s = .next (s.withMd5Room 1 fun t => (t.setMd5 (t.md5.absorb b)).complete) :=
  congrArg Host.Outcome.next (s.withVmd5_of_valid _ h)

theorem exec_md5Updm_of_valid (h : s.valid.vmd5 = true) :
    exec .md5Updm s = .next (s.withInput fun m => s.withMd5Room s.x.x1.toNat fun t =>
      (t.setMd5 (m.foldl Md5Unit.absorb t.md5)).complete) :=
  congrArg Host.Outcome.next (s.withVmd5_of_valid _ h)

theorem exec_md5Fin_of_fits (h : s.valid.vmd5 = true) (hfit : fits s.x.x3 16) :
    exec .md5Fin s = .next
      (((s.md5Finished.stored s.x.x3 (md5Digest s.md5Finished.md5.words)).setVmd5 false).freeMd5Buf).complete :=
  congrArg Host.Outcome.next ((s.withVmd5_of_valid _ h).trans (s.withRange_of_fits _ _ _ hfit))

theorem exec_md5Fin_of_not_fits (h : s.valid.vmd5 = true) (hfit : ¬ fits s.x.x3 16) :
    exec .md5Fin s = .next (s.faulted 0x11#8 s.x.x3) :=
  congrArg Host.Outcome.next ((s.withVmd5_of_valid _ h).trans (s.withRange_of_not_fits _ _ _ hfit))

theorem exec_md5Calc_of_shows {m : List Byte} (hin : fits s.x.x0 s.x.x1.toNat)
    (hm : s.pbuf.shows s.x.x0.toNat s.x.x1.toNat m) (hout : fits s.x.x3 16) :
    exec .md5Calc s = .next (s.stored s.x.x3 (md5 m)).complete :=
  congrArg Host.Outcome.next ((s.withInput_of_shows _ hin hm).trans (s.withRange_of_fits _ _ _ hout))

theorem exec_md5Calc_of_output_not_fits (hin : fits s.x.x0 s.x.x1.toNat) (hout : ¬ fits s.x.x3 16) :
    exec .md5Calc s = .next (s.faulted 0x11#8 s.x.x3) :=
  congrArg Host.Outcome.next ((s.withInput_of_fits _ hin).trans (s.withRange_of_not_fits _ _ _ hout))

end Ops

/-- Settles O23: each operation keeps the invariant `Md5Unit.Absorbed`, which gives the digest at `MD5.FIN`. -/
theorem md5StreamingLaw : Obligations.Md5StreamingLaw := by
  refine ⟨fun s => ⟨_, exec_md5Init s, Md5Unit.absorbed_nil _⟩, fun s m b hv ha hm => ?updb,
    fun s m p hv ha hfit hp hm => ?updm, fun s m hv ha hfit => ?fin,
    fun s m hin hm hout => ⟨_, Memory.holds_storeBytes _ _ _, exec_md5Calc_of_shows s hin hm hout⟩⟩
  case updb =>
    have hroom : s.md5.len.toNat + 1 ≤ 2 ^ 24 := ha.len.symm ▸ hm
    refine ⟨_, ?_, ha.absorb b (by omega)⟩
    rw [exec_md5Updb_of_valid s hv, s.withMd5Room_of_room _ _ hroom]
    rfl
  case updm =>
    have hroom : s.md5.len.toNat + s.x.x1.toNat ≤ 2 ^ 24 := by
      rw [ha.len, ← hp.1]
      exact hm
    refine ⟨_, ?_, ha.foldl_absorb p (by omega)⟩
    rw [exec_md5Updm_of_valid s hv, s.withInput_of_shows _ hfit hp, s.withMd5Room_of_room _ _ hroom]
    rfl
  case fin =>
    refine ⟨_, md5Absorb s.md5.words s.md5.tail, Config.md5BufAfterFin s.env.drawn, Memory.holds_storeBytes _ _ _, ha.finish,
      ?_⟩
    rw [exec_md5Fin_of_fits s hv hfit, State.md5Finished, State.setMd5_md5, ha.finish]
    -- The end state is the same whatever the words and the digest are; as terms they are large.
    generalize md5 m = d, md5Absorb s.md5.words s.md5.tail = w
    rfl

/-- Settles O22: `MD5.INIT` checks nothing, `MD5.CALC` its two ranges in their order; the kernel evaluates the two digests. -/
theorem md5InitAndCalc : Obligations.Md5InitAndCalc :=
  ⟨decode_encode (i := .md5Init) rfl, decode_encode (i := .md5Calc) rfl,
    fun s => ⟨⟨_, exec_md5Init s⟩, fun hin => congrArg Host.Outcome.next (s.withInput_of_not_fits _ hin),
      exec_md5Calc_of_output_not_fits s,
      fun m hin hout hm => ⟨_, Memory.holds_storeBytes _ _ _, md5_length m, exec_md5Calc_of_shows s hin hm hout⟩⟩,
    by decide +kernel, by decide +kernel⟩

/-- Settles O24: `VMD5` is checked first, the range next, the length last. -/
theorem md5Faults : Obligations.Md5Faults := by
  refine fun s => ⟨fun h b => ?notValid, fun h => ?valid⟩
  case notValid =>
    refine ⟨?_, ?_, ?_⟩
    all_goals exact congrArg Host.Outcome.next (s.withVmd5_of_not_valid _ h)
  case valid =>
    have hupdm := exec_md5Updm_of_valid s h
    refine ⟨fun hlen b => ?updb, fun hfit => hupdm.trans (congrArg Host.Outcome.next (s.withInput_of_not_fits _ hfit)),
      fun hfit hlen => ?updm, exec_md5Fin_of_not_fits s h⟩
    case updb => exact (exec_md5Updb_of_valid s h b).trans (congrArg Host.Outcome.next (s.withMd5Room_of_no_room _ _ hlen))
    case updm =>
      exact hupdm.trans (congrArg Host.Outcome.next
        ((s.withInput_of_fits _ hfit).trans (s.withMd5Room_of_no_room _ _ hlen)))

end Sys2Proof.Machine
end

section
/-! The SHA-256 unit (O25 to O27). R177 fills `SHA_BUF` and counts `SHA_LEN` as R161 does `MD5_BUF` and `MD5_LEN`; only what a
full buffer is compressed into differs. So an MD5 unit with that buffer and that length has absorbed the message too
(`ShaUnit.Absorbed.md5_absorbed`), which gives the buffer and the length after one more byte; the chaining value is SHA-256's own
part (`ShaUnit.Absorbed.words_absorb`). -/

namespace Sys2Proof.Machine

/-! ### SHA-256 of a message in pieces (R175, R179) -/

theorem shaAbsorb_append (v : ShaWords) {a : List Byte} (b : List Byte) (ha : 64 ∣ a.length) :
    shaAbsorb v (a ++ b) = shaAbsorb (shaAbsorb v a) b := foldl_blocks64_append shaCompress v b ha

theorem shaAbsorb_block (v : ShaWords) {blk : List Byte} (h : blk.length = 64) : shaAbsorb v blk = shaCompress v blk :=
  congrArg (List.foldl shaCompress v) (blocks64_one h)

theorem sha256_length (m : List Byte) : (sha256 m).length = 32 := rfl

/-! ### Absorbing one byte (R177) -/

theorem Md5Unit.absorb_buf (u : Md5Unit) (b : Byte) : (u.absorb b).buf = bufPut u.buf u.len b :=
  (apply_ite Md5Unit.buf _ _ _).trans (ite_self _)

theorem ShaUnit.absorb_buf (u : ShaUnit) (b : Byte) : (u.absorb b).buf = bufPut u.buf u.len b :=
  (apply_ite ShaUnit.buf _ _ _).trans (ite_self _)

theorem ShaUnit.absorb_words (u : ShaUnit) (b : Byte) :
    (u.absorb b).words =
      if (u.len + 1#32).toNat % 64 = 0 then shaCompress u.words (bufPut u.buf u.len b).toList else u.words :=
  apply_ite ShaUnit.words _ _ _

/-! ### The invariant of a streaming digest (R182) -/

section Absorbed

variable {u : ShaUnit} {m : List Byte}

theorem ShaUnit.absorbed_nil (buf : Vector Byte 64) : ShaUnit.Absorbed ⟨shaInit, buf, 0#32⟩ [] := ⟨rfl, rfl, rfl⟩

/-- An MD5 unit with the buffer and the length of a SHA-256 unit, and MD5's own chaining value, has absorbed the message. -/
theorem ShaUnit.Absorbed.md5_absorbed (h : u.Absorbed m) :
    Md5Unit.Absorbed ⟨md5Absorb md5Init (m.take (64 * (m.length / 64))), u.buf, u.len⟩ m := ⟨h.len, rfl, h.buf⟩

/-- The chaining value after one more byte: where that byte completes a block, the full buffer is that block. -/
theorem ShaUnit.Absorbed.words_absorb (h : u.Absorbed m) (b : Byte) (hlen : (u.len + 1#32).toNat = m.length + 1) :
    (u.absorb b).words = shaAbsorb shaInit ((m ++ [b]).take (64 * ((m ++ [b]).length / 64))) := by
  rw [u.absorb_words, hlen]
  by_cases hfull : m.length % 64 = 63
  case neg => rw [if_neg (by omega), (take_drop_blocks_concat b hfull).1, h.words]
  case pos =>
    have hblock : (bufPut u.buf u.len b).toList = m.drop (64 * (m.length / 64)) ++ [b] := by
      rw [← h.md5_absorbed.bufPut_shows_rest b, hfull, List.take_of_length_le (by simp)]
    rw [if_pos (by omega), (take_drop_blocks_concat_of_full b hfull).1, ← hblock,
      shaAbsorb_append _ _ (dvd_length_take_blocks m), shaAbsorb_block _ Vector.length_toList, h.words]

/-- One byte, and `SHA_LEN` below its wrap (R177). -/
theorem ShaUnit.Absorbed.absorb (h : u.Absorbed m) (b : Byte) (hm : m.length + 1 < 2 ^ 32) :
    (u.absorb b).Absorbed (m ++ [b]) := by
  obtain ⟨hlen, -, hbuf⟩ := h.md5_absorbed.absorb b hm
  rw [Md5Unit.absorb_len] at hlen
  rw [Md5Unit.absorb_buf] at hbuf
  exact ⟨u.absorb_len b ▸ hlen, h.words_absorb b (hlen.trans List.length_append), u.absorb_buf b ▸ hbuf⟩

/-- Any byte string, as far as `SHA_LEN` does not wrap (R178). -/
theorem ShaUnit.Absorbed.foldl_absorb (h : u.Absorbed m) (p : List Byte) (hp : m.length + p.length < 2 ^ 32) :
    (p.foldl ShaUnit.absorb u).Absorbed (m ++ p) := by
  induction p generalizing u m with
  | nil => exact (List.append_nil m).symm ▸ h
  | cons b p ih =>
    rw [List.length_cons] at hp
    rw [List.append_cons]
    exact ih (h.absorb b (by omega)) (by rw [List.length_append, List.length_singleton]; omega)

/-- The meaningful part of `SHA_BUF` and the padding complete the padded message (R179). -/
theorem ShaUnit.Absorbed.finish (h : u.Absorbed m) : shaDigest (shaAbsorb u.words u.tail) = sha256 m := by
  have hpad : m.take (64 * (m.length / 64)) ++ u.tail = shaPad m := by
    rw [ShaUnit.tail, h.len, h.buf, ← List.append_assoc, List.take_append_drop, shaPad]
  rw [h.words, ← shaAbsorb_append _ _ (dvd_length_take_blocks m), hpad, sha256]

end Absorbed

/-! ### The checks (R180) and the operations (R176 to R181) -/

section Ops

variable (s : State)

theorem State.withVsha_of_valid (go : State → State) (h : s.valid.vsha = true) : s.withVsha go = go s := if_pos h

theorem State.withVsha_of_not_valid (go : State → State) (h : s.valid.vsha = false) : s.withVsha go = s.faulted 0x15#8 4#32 :=
  if_neg (ne_true_of_eq_false h)

theorem State.withShaRoom_of_room (n : Nat) (go : State → State) (h : s.sha.len.toNat + n ≤ 2 ^ 24) :
    s.withShaRoom n go = go s := if_neg h.not_gt

theorem State.withShaRoom_of_no_room (n : Nat) (go : State → State) (h : 2 ^ 24 < s.sha.len.toNat + n) :
    s.withShaRoom n go = s.faulted 0x12#8 4#32 := if_pos h

theorem exec_shaInit :
    exec .shaInit s = .next ((s.setSha ⟨shaInit, s.sha.buf, 0#32⟩).setVsha true).complete := rfl

theorem exec_shaUpdb_of_valid (h : s.valid.vsha = true) (b : Byte) :
    exec (.shaUpdb b) s = .next (s.withShaRoom 1 fun t => (t.setSha (t.sha.absorb b)).complete) :=
  congrArg Host.Outcome.next (s.withVsha_of_valid _ h)

theorem exec_shaUpdm_of_valid (h : s.valid.vsha = true) :
    exec .shaUpdm s = .next (s.withInput fun m => s.withShaRoom s.x.x1.toNat fun t =>
      (t.setSha (m.foldl ShaUnit.absorb t.sha)).complete) :=
  congrArg Host.Outcome.next (s.withVsha_of_valid _ h)

theorem exec_shaFin_of_valid (h : s.valid.vsha = true) :
    exec .shaFin s = .next (s.withRange s.x.x3 32 fun t =>
      (((t.shaFinished.stored t.x.x3 (shaDigest t.shaFinished.sha.words)).setVsha false).freeShaBuf).complete) :=
  congrArg Host.Outcome.next (s.withVsha_of_valid _ h)

theorem exec_shaCalc_of_shows {m : List Byte} (hin : fits s.x.x0 s.x.x1.toNat)
    (hm : s.pbuf.shows s.x.x0.toNat s.x.x1.toNat m) (hout : fits s.x.x3 32) :
    exec .shaCalc s = .next (s.stored s.x.x3 (sha256 m)).complete :=
  congrArg Host.Outcome.next ((s.withInput_of_shows _ hin hm).trans (s.withRange_of_fits _ _ _ hout))

theorem exec_shaCalc_of_output_not_fits (hin : fits s.x.x0 s.x.x1.toNat) (hout : ¬ fits s.x.x3 32) :
    exec .shaCalc s = .next (s.faulted 0x11#8 s.x.x3) :=
  congrArg Host.Outcome.next ((s.withInput_of_fits _ hin).trans (s.withRange_of_not_fits _ _ _ hout))

end Ops

/-- Settles O26: each operation keeps the invariant `ShaUnit.Absorbed`, which gives the digest at `SHA.FIN`. -/
theorem shaStreamingLaw : Obligations.ShaStreamingLaw := by
  refine ⟨fun s => ⟨_, exec_shaInit s, ShaUnit.absorbed_nil _⟩, fun s m b hv ha hm => ?updb,
    fun s m p hv ha hfit hp hm => ?updm, fun s m hv ha hfit => ?fin,
    fun s m hin hm hout => ⟨_, Memory.holds_storeBytes _ _ _, exec_shaCalc_of_shows s hin hm hout⟩⟩
  case updb =>
    have hroom : s.sha.len.toNat + 1 ≤ 2 ^ 24 := ha.len.symm ▸ hm
    exact ⟨_, (exec_shaUpdb_of_valid s hv b).trans (congrArg Host.Outcome.next (s.withShaRoom_of_room _ _ hroom)),
      ha.absorb b (by omega)⟩
  case updm =>
    have hroom : s.sha.len.toNat + s.x.x1.toNat ≤ 2 ^ 24 := by rwa [ha.len, ← hp.1]
    exact ⟨_, (exec_shaUpdm_of_valid s hv).trans (congrArg Host.Outcome.next
      ((s.withInput_of_shows _ hfit hp).trans (s.withShaRoom_of_room _ _ hroom))), ha.foldl_absorb p (by omega)⟩
  case fin =>
    refine ⟨_, shaAbsorb s.sha.words s.sha.tail, Config.shaBufAfterFin s.env.drawn, Memory.holds_storeBytes _ _ _, ha.finish,
      ?_⟩
    rw [exec_shaFin_of_valid s hv, s.withRange_of_fits _ _ _ hfit, State.shaFinished, State.setSha_sha, ha.finish]
    -- The end state is the same whatever the words and the digest are; as terms they are large.
    generalize sha256 m = d, shaAbsorb s.sha.words s.sha.tail = w
    rfl

/-- Settles O25: `SHA.INIT` checks nothing, `SHA.CALC` its two ranges in their order; the kernel evaluates the three digests. -/
theorem shaInitAndCalc : Obligations.ShaInitAndCalc :=
  ⟨decode_encode (i := .shaInit) rfl, decode_encode (i := .shaCalc) rfl,
    fun s => ⟨⟨_, exec_shaInit s⟩, fun hin => congrArg Host.Outcome.next (s.withInput_of_not_fits _ hin),
      exec_shaCalc_of_output_not_fits s,
      fun m hin hout hm => ⟨_, Memory.holds_storeBytes _ _ _, sha256_length m, exec_shaCalc_of_shows s hin hm hout⟩⟩,
    by decide +kernel, by decide +kernel, by decide +kernel⟩

/-- Settles O27: `VSHA` is checked first, the range next, the length last. -/
theorem shaFaults : Obligations.ShaFaults := by
  refine fun s => ⟨fun h b => ?notValid, fun h => ?valid⟩
  case notValid =>
    refine ⟨?_, ?_, ?_⟩
    all_goals exact congrArg Host.Outcome.next (s.withVsha_of_not_valid _ h)
  case valid =>
    have hupdm := exec_shaUpdm_of_valid s h
    refine ⟨fun hlen b => ?updb, fun hfit => hupdm.trans (congrArg Host.Outcome.next (s.withInput_of_not_fits _ hfit)),
      fun hfit hlen => ?updm, fun hfit => ?fin⟩
    case updb => exact (exec_shaUpdb_of_valid s h b).trans (congrArg Host.Outcome.next (s.withShaRoom_of_no_room _ _ hlen))
    case updm =>
      exact hupdm.trans (congrArg Host.Outcome.next
        ((s.withInput_of_fits _ hfit).trans (s.withShaRoom_of_no_room _ _ hlen)))
    case fin => exact (exec_shaFin_of_valid s h).trans (congrArg Host.Outcome.next (s.withRange_of_not_fits _ _ _ hfit))

end Sys2Proof.Machine
end

section
/-! The configuration operations and the packets of the XMODEM sender (O28, O29). -/

namespace Sys2Proof.Machine

/-! ### Configuration (R194, R195) -/

/-- Settles O28: both words decode to their operation (`decode_encode`), and neither operation checks anything. -/
theorem xmConfiguration : Obligations.XmConfiguration :=
  ⟨fun p => decode_encode (i := .xmPad p) rfl, fun m => decode_encode (i := .xmMaxr m) rfl, fun _ _ => ⟨rfl, rfl⟩⟩

/-! ### What a packet holds (R196, R197) -/

theorem xmPackets_eq (total : Nat) : xmPackets total = (total + 1023) / 1024 := rfl

theorem sum8_eq (bs : List Byte) : sum8 bs = BitVec.ofNat 8 ((bs.map BitVec.toNat).sum % 256) := by
  have hfold (a : Byte) : bs.foldl (· + ·) a = a + BitVec.ofNat 8 (bs.map BitVec.toNat).sum := by
    induction bs generalizing a with
    | nil => simp
    | cons b bs ih => simp [ih, BitVec.ofNat_add, BitVec.add_assoc]
  rw [sum8, hfold, BitVec.zero_add]
  exact BitVec.eq_of_toNat_eq (by simp)

theorem xmBlk_eq (k : Nat) : xmBlk k = BitVec.ofNat 8 ((k + 1) % 256) :=
  BitVec.eq_of_toNat_eq (by simp [xmBlk])

section Data

variable (p : List Byte) (pad : Byte) (mode : Bool) (k : Nat)

theorem xmData_eq :
    xmData p pad k = (p.drop (1024 * k)).take 1024 ++ List.replicate (1024 - (p.length - 1024 * k)) pad := by
  have hlen : 1024 * (k + 1) - 1024 * k = 1024 := by omega
  simp only [xmData, slice, rep, Config.xmBlock, hlen, List.length_take, List.length_drop]
  congr 2
  omega

theorem xmData_length : (xmData p pad k).length = 1024 := by
  simp only [xmData_eq, List.length_append, List.length_take, List.length_drop, List.length_replicate]
  omega

/-- Byte `j` of the data field: of the payload where it reaches that far, else padding. -/
theorem xmData_getD {j : Nat} (hj : j < 1024) :
    (xmData p pad k).getD j 0#8 = if 1024 * k + j < p.length then p.getD (1024 * k + j) 0#8 else pad := by
  have hfield : ((p.drop (1024 * k)).take 1024).length = min 1024 (p.length - 1024 * k) := by simp
  rw [xmData_eq]
  split
  case isTrue hin =>
    rw [List.getD_append _ _ _ _ (by omega)]
    simp [List.getD_eq_getElem?_getD, hj]
  case isFalse hout =>
    rw [List.getD_append_right _ _ _ _ (by omega), hfield, List.getD_replicate (h := by omega)]

theorem xmCheck_length (d : List Byte) : (xmCheck mode d).length = if mode then 2 else 1 := by cases mode <;> rfl

theorem xmPacket_length : (xmPacket p pad mode k).length = if mode then 1029 else 1028 := by
  simp only [xmPacket, List.length_append, xmData_length, xmCheck_length]
  cases mode <;> rfl

end Data

/-- Settles O29: the data field byte by byte, the block number modulo 256, the checksum as a sum over the integers. -/
theorem xmPacketBytes : Obligations.XmPacketBytes := by
  refine ⟨fun total => ?packets, fun p pad mode k _ =>
    ⟨xmData p pad k, xmData_length p pad k, fun j hj => xmData_getD p pad k hj, ?bytes, xmPacket_length p pad mode k⟩⟩
  case packets =>
    rw [xmPackets_eq]
    split <;> omega
  case bytes =>
    rw [xmPacket, xmBlk_eq]
    refine congrArg _ ?_
    cases mode with
    | true => rfl
    | false => exact congrArg (fun b => [b]) (sum8_eq _)

end Sys2Proof.Machine
end

section
/-! The waits of `XM.SEND` (O32, O33, O34). An answer of the peer or a `Timeout` at one of the three
waits is one rule each (`State.step_of_xmodem_byte`, `State.step_of_xmodem_timeout`); what does not acknowledge a packet or the
`EOT`, byte or `Timeout`, leads to `State.xmRetry` in both phases. What follows is said once for each piece of the send loop. -/

namespace Sys2Proof.Machine

section Pieces

variable (s : State)

/-! ### One transmission (R199, R204, R206) -/

theorem State.txPut_of_write_fails (b : Byte) (bs : List Byte) (fail ok : State → State) (h : s.env.writeFails = true) :
    s.txPut (b :: bs) fail ok = fail s.txFailed := if_pos h

/-- A packet transmitted, written out: the draw, the bytes, the block number, the wait. -/
theorem State.xmTransmitPacket_sends {p : List Byte} {k : Nat} (hk : s.xmK.toNat = k)
    (hp : s.pbuf.shows s.xmBase.toNat s.xmTotal.toNat p) (hc : s.ctrl.cancel = false) (hw : s.env.writeFails = false) :
    s.xmTransmitPacket = State.waiting { s.wrote with
      tx := s.tx ++ xmPacket p s.xmCfg.pad s.xmStat.mode k
      xmStat := { s.xmStat with blk := xmBlk k } } .xmPacket := by
  have hpayload : s.xmPayload = p := Memory.bytes_of_shows _ _ _ p hp
  subst hk hpayload
  exact s.xmTransmitPacket_of_write_passes hc hw

theorem State.xmTransmitPacket_of_write_fails {k : Nat} (hk : s.xmK.toNat = k) (hc : s.ctrl.cancel = false)
    (hw : s.env.writeFails = true) :
    s.xmTransmitPacket = State.faulted { s.wrote with
      xmStat := { s.xmStat with state := .aborted, blk := xmBlk k } } 0x02#8 0#32 := by
  subst hk
  exact (s.checkpoint_of_not_cancel _ _ hc).trans (State.txPut_of_write_fails _ _ _ _ _ hw)

theorem State.xmTransmitPacket_of_cancel (hc : s.ctrl.cancel = true) :
    s.xmTransmitPacket = (s.emit (.log .warning .cancelled)).xmCancelled := s.checkpoint_of_cancel _ _ hc

theorem State.xmTransmitEot_sends (hc : s.ctrl.cancel = false) (hw : s.env.writeFails = false) :
    s.xmTransmitEot = State.waiting { s.wrote with tx := s.tx ++ [0x04#8] } .xmEot :=
  (s.checkpoint_of_not_cancel _ _ hc).trans (s.txPut_of_write_passes _ _ _ _ hw)

theorem State.xmTransmitEot_of_write_fails (hc : s.ctrl.cancel = false) (hw : s.env.writeFails = true) :
    s.xmTransmitEot =
      State.faulted { s.wrote with xmStat := { s.xmStat with state := .aborted } } 0x02#8 0#32 :=
  (s.checkpoint_of_not_cancel _ _ hc).trans (s.txPut_of_write_fails _ _ _ _ hw)

theorem State.xmTransmitEot_of_cancel (hc : s.ctrl.cancel = true) :
    s.xmTransmitEot = (s.emit (.log .warning .cancelled)).xmCancelled := s.checkpoint_of_cancel _ _ hc

/-! ### The head of the loop, and a failed transmission (R199, R201, R204) -/

theorem State.xmNext_of_packets_left (h : s.xmK.toNat < xmPackets s.xmTotal.toNat) :
    s.xmNext = (s.xmSetRetry 0#8).xmTransmitPacket := if_pos h

theorem State.xmNext_of_no_packet_left (h : xmPackets s.xmTotal.toNat ≤ s.xmK.toNat) :
    s.xmNext = ((s.xmSetState .eot).xmSetRetry 0#8).xmTransmitEot := if_neg h.not_gt

theorem State.xmLimit_eq : s.xmLimit = max 1 (s.xmCfg.maxr.toNat + if s.params.xmFirstExtra then 1 else 0) := by
  unfold State.xmLimit
  cases s.params.xmFirstExtra <;> rfl

theorem State.xmRetry_of_limit_reached (again : State → State) (h : s.xmLimit ≤ s.xmStat.retry.toNat + 1) :
    s.xmRetry again = s.xmAbort .xmodemRetriesExhausted s.xmK := if_pos h

theorem State.xmRetry_of_retry_left (again : State → State) (h : s.xmStat.retry.toNat + 1 < s.xmLimit) :
    s.xmRetry again = again (s.xmSetRetry (BitVec.ofNat 8 (s.xmStat.retry.toNat + 1))) := by
  have hsucc : s.xmStat.retry + 1#8 = BitVec.ofNat 8 (s.xmStat.retry.toNat + 1) := by simp [BitVec.ofNat_add]
  rw [← hsucc]
  exact if_neg h.not_ge

/-! ### Both, written out -/

section Sends

variable {p : List Byte} {k : Nat}

theorem State.xmNext_sends_packet (hk : s.xmK.toNat = k) (hleft : k < xmPackets s.xmTotal.toNat)
    (hp : s.pbuf.shows s.xmBase.toNat s.xmTotal.toNat p) (hc : s.ctrl.cancel = false) (hw : s.env.writeFails = false) :
    s.xmNext = State.waiting { s.wrote with
      tx := s.tx ++ xmPacket p s.xmCfg.pad s.xmStat.mode k
      xmStat := { s.xmStat with blk := xmBlk k, retry := 0#8 } } .xmPacket :=
  (s.xmNext_of_packets_left (hk ▸ hleft)).trans ((s.xmSetRetry 0#8).xmTransmitPacket_sends hk hp hc hw)

theorem State.xmNext_of_packet_write_fails (hk : s.xmK.toNat = k) (hleft : k < xmPackets s.xmTotal.toNat)
    (hc : s.ctrl.cancel = false) (hw : s.env.writeFails = true) :
    s.xmNext = State.faulted { s.wrote with
      xmStat := { s.xmStat with state := .aborted, blk := xmBlk k, retry := 0#8 } } 0x02#8 0#32 :=
  (s.xmNext_of_packets_left (hk ▸ hleft)).trans ((s.xmSetRetry 0#8).xmTransmitPacket_of_write_fails hk hc hw)

theorem State.xmNext_sends_eot (hnone : xmPackets s.xmTotal.toNat ≤ s.xmK.toNat) (hc : s.ctrl.cancel = false)
    (hw : s.env.writeFails = false) :
    s.xmNext = State.waiting { s.wrote with
      tx := s.tx ++ [0x04#8]
      xmStat := { s.xmStat with state := .eot, retry := 0#8 } } .xmEot :=
  (s.xmNext_of_no_packet_left hnone).trans (((s.xmSetState .eot).xmSetRetry 0#8).xmTransmitEot_sends hc hw)

theorem State.xmNext_of_eot_write_fails (hnone : xmPackets s.xmTotal.toNat ≤ s.xmK.toNat) (hc : s.ctrl.cancel = false)
    (hw : s.env.writeFails = true) :
    s.xmNext = State.faulted { s.wrote with
      xmStat := { s.xmStat with state := .aborted, retry := 0#8 } } 0x02#8 0#32 :=
  (s.xmNext_of_no_packet_left hnone).trans (((s.xmSetState .eot).xmSetRetry 0#8).xmTransmitEot_of_write_fails hc hw)

theorem State.xmRetry_sends_packet (hleft : s.xmStat.retry.toNat + 1 < s.xmLimit)
    (hp : s.pbuf.shows s.xmBase.toNat s.xmTotal.toNat p) (hc : s.ctrl.cancel = false) (hw : s.env.writeFails = false) :
    s.xmRetry State.xmTransmitPacket = State.waiting { s.wrote with
      tx := s.tx ++ xmPacket p s.xmCfg.pad s.xmStat.mode s.xmK.toNat
      xmStat := { s.xmStat with
        blk := xmBlk s.xmK.toNat
        retry := BitVec.ofNat 8 (s.xmStat.retry.toNat + 1) } } .xmPacket :=
  (s.xmRetry_of_retry_left _ hleft).trans ((s.xmSetRetry _).xmTransmitPacket_sends rfl hp hc hw)

theorem State.xmRetry_of_packet_write_fails (hleft : s.xmStat.retry.toNat + 1 < s.xmLimit) (hc : s.ctrl.cancel = false)
    (hw : s.env.writeFails = true) :
    s.xmRetry State.xmTransmitPacket = State.faulted { s.wrote with
      xmStat := { s.xmStat with
        state := .aborted
        blk := xmBlk s.xmK.toNat
        retry := BitVec.ofNat 8 (s.xmStat.retry.toNat + 1) } } 0x02#8 0#32 :=
  (s.xmRetry_of_retry_left _ hleft).trans ((s.xmSetRetry _).xmTransmitPacket_of_write_fails rfl hc hw)

theorem State.xmRetry_sends_eot (hleft : s.xmStat.retry.toNat + 1 < s.xmLimit) (hc : s.ctrl.cancel = false)
    (hw : s.env.writeFails = false) :
    s.xmRetry State.xmTransmitEot = State.waiting { s.wrote with
      tx := s.tx ++ [0x04#8]
      xmStat := { s.xmStat with retry := BitVec.ofNat 8 (s.xmStat.retry.toNat + 1) } } .xmEot :=
  (s.xmRetry_of_retry_left _ hleft).trans ((s.xmSetRetry _).xmTransmitEot_sends hc hw)

theorem State.xmRetry_of_eot_write_fails (hleft : s.xmStat.retry.toNat + 1 < s.xmLimit) (hc : s.ctrl.cancel = false)
    (hw : s.env.writeFails = true) :
    s.xmRetry State.xmTransmitEot = State.faulted { s.wrote with
      xmStat := { s.xmStat with state := .aborted, retry := BitVec.ofNat 8 (s.xmStat.retry.toNat + 1) } } 0x02#8 0#32 :=
  (s.xmRetry_of_retry_left _ hleft).trans ((s.xmSetRetry _).xmTransmitEot_of_write_fails hc hw)

/-- A set cancel flag is seen before a retransmission, of a packet or of the `EOT`. -/
theorem State.xmRetry_of_cancel {again : State → State}
    (hagain : again = State.xmTransmitPacket ∨ again = State.xmTransmitEot)
    (hleft : s.xmStat.retry.toNat + 1 < s.xmLimit) (hc : s.ctrl.cancel = true) :
    s.xmRetry again = State.faulted { s with
      xmStat := { s.xmStat with state := .aborted, retry := BitVec.ofNat 8 (s.xmStat.retry.toNat + 1) }
      evt := s.evt ++ [.log .warning .cancelled] } 0x09#8 0#32 := by
  rw [s.xmRetry_of_retry_left _ hleft]
  rcases hagain with rfl | rfl
  · exact (s.xmSetRetry _).xmTransmitPacket_of_cancel hc
  · exact (s.xmSetRetry _).xmTransmitEot_of_cancel hc

end Sends

/-! ### The answers to a packet and to the `EOT` (R199, R200, R202, R204) -/

theorem State.resume_xmEot_of_cons (b : Byte) (q : List Byte) (h : s.rxq = b :: q) :
    s.resume .xmEot = (s.rxDrop 1).xmEotResponse b := s.rxByte_of_cons _ _ b q h

theorem State.xmPacketByte_ack (hk : s.xmK.toNat < xmPackets s.xmTotal.toNat) :
    s.xmPacketByte 0x06#8 = State.xmNext { s with
      xmK := BitVec.ofNat 32 (s.xmK.toNat + 1)
      xmSent := BitVec.ofNat 32 (min ((s.xmK.toNat + 1) * 1024) s.xmTotal.toNat)
      evt := s.evt ++ [.progress (BitVec.ofNat 32 (min ((s.xmK.toNat + 1) * 1024) s.xmTotal.toNat)) s.xmTotal
        (BitVec.ofNat 32 (s.xmK.toNat + 1)) (BitVec.ofNat 32 (s.xmK.toNat * 1024))] } :=
  congrArg State.xmNext (s.xmProgress_xmAdvance_eq hk)

theorem State.xmPacketByte_of_other {r : Byte} (hack : r ≠ 0x06#8) (hcan : r ≠ 0x18#8) :
    s.xmPacketByte r = s.xmRetry State.xmTransmitPacket := (if_neg hack).trans (if_neg hcan)

theorem State.xmEotResponse_of_other {r : Byte} (hack : r ≠ 0x06#8) (hcan : r ≠ 0x18#8) :
    s.xmEotResponse r = s.xmRetry State.xmTransmitEot := (if_neg hack).trans (if_neg hcan)

theorem xmStops_retry {again : State → State} (h : ∀ t : State, State.xmStops t.rxq (again t)) :
    State.xmStops s.rxq (s.xmRetry again) := by
  unfold State.xmRetry
  split
  · exact .inl rfl
  · exact h (s.xmSetRetry _)

/-- Where the sender stops with nothing queued, the block rests. -/
theorem State.settle_of_xmStops (h : State.xmStops [] s) : s.settle = s := by
  rcases h with hidle | ⟨hq, hc | hc⟩
  · exact s.settle_of_idle hidle
  · exact s.settle_of_not_contReady .xmPacket hc (by simp [State.contReady, hq])
  · exact s.settle_of_not_contReady .xmEot hc (by simp [State.contReady, hq])

theorem setWidth_ofBool (b : Bool) : (BitVec.ofBool b).setWidth 32 = if b then 1#32 else 0#32 := by cases b <;> rfl

/-- A state that waits already is written without the wait. -/
theorem State.waiting_eq_of_cont {t u : State} {c : Cont} (hc : u.cont = some c) (h : t.waiting c = u.waiting c) :
    t.waiting c = u := by
  rw [h, State.waiting, ← hc]

end Pieces

/-! ### A turn at a wait for one byte (R193, R199, R338) -/

/-- `s` as its continuation is taken up, the schedule being `rest` (R25). -/
abbrev State.atTurn (s : State) (rest : List Turn) : State := { s with turns := rest, cont := none }

section Turns

variable {s : State} {c : Cont} {e : Turn} {rest : List Turn} (hq : s.rxq = [])
include hq

/-- The peer's byte is taken at once, and nothing else is queued. -/
theorem State.step_of_xmodem_byte {b : Byte} {go : State → Byte → State} (hc : s.cont = some c)
    (hx : c ∈ [.xmInit, .xmPacket, .xmEot]) (ht : s.turns = .peer b :: rest) (hh : holdOf rest = none)
    (hresume : ∀ (t : State) q, t.rxq = b :: q → t.resume c = go (t.rxDrop 1) b)
    (hstops : ∀ t : State, State.xmStops t.rxq (go t b)) : step s = .next (go (s.atTurn rest) b) := by
  have hmoved := s.agentMoved_of_peer b rest ht hh
  have hready : State.contReady { s with turns := rest, rxq := s.rxq ++ [b] } c = true :=
    (State.contReady_xmodem_iff _ c hx).2 (by simp)
  have htaken : (State.uncont { s with turns := rest, rxq := s.rxq ++ [b] }).rxDrop 1 = s.atTurn rest := by
    simp [State.rxDrop, State.uncont, State.atTurn, hq]
  have hrest : State.xmStops [] (go (s.atTurn rest) b) := hq ▸ hstops (s.atTurn rest)
  rw [s.step_of_agentMoved _ c hc hmoved hready, hresume _ [] (congrArg (· ++ [b]) hq), htaken,
    State.settle_of_xmStops _ hrest]

theorem State.step_of_xmodem_timeout (hc : s.cont = some c) (hx : c ∈ [.xmInit, .xmPacket, .xmEot])
    (ht : s.turns = .timeout :: rest) (hstops : ∀ t : State, State.xmStops t.rxq (t.expire c)) :
    step s = .next ((s.atTurn rest).expire c) := by
  have hready : s.contReady c = false := by
    rw [Bool.eq_false_iff]
    exact fun h => (s.contReady_xmodem_iff c hx).1 h hq
  have hrest : State.xmStops [] ((s.atTurn rest).expire c) := hq ▸ hstops (s.atTurn rest)
  exact (s.step_of_timeout_not_contReady c rest hc ht hready).trans
    (congrArg Host.Outcome.next (State.settle_of_xmStops ((s.atTurn rest).expire c) hrest))

theorem State.step_of_initiation_byte {b : Byte} (hc : s.cont = some .xmInit) (ht : s.turns = .peer b :: rest)
    (hh : holdOf rest = none) : step s = .next ((s.atTurn rest).xmInitByte b) :=
  State.step_of_xmodem_byte hq hc (by simp) ht hh (fun t => t.resume_xmInit_of_cons b) fun t => xmStops_initByte t b

theorem State.step_of_packet_response {b : Byte} (hc : s.cont = some .xmPacket) (ht : s.turns = .peer b :: rest)
    (hh : holdOf rest = none) : step s = .next ((s.atTurn rest).xmPacketByte b) :=
  State.step_of_xmodem_byte hq hc (by simp) ht hh (fun t => t.resume_xmPacket_of_cons b) fun t => xmStops_packetByte t b

theorem State.step_of_eot_response {b : Byte} (hc : s.cont = some .xmEot) (ht : s.turns = .peer b :: rest)
    (hh : holdOf rest = none) : step s = .next ((s.atTurn rest).xmEotResponse b) :=
  State.step_of_xmodem_byte hq hc (by simp) ht hh (fun t => t.resume_xmEot_of_cons b) fun t => xmStops_eotResponse t b

/-- `'C'` or `NAK`: the mode is set, and the send loop begins (R193). -/
theorem State.step_of_mode_byte {b : Byte} (hc : s.cont = some .xmInit) (ht : s.turns = .peer b :: rest)
    (hh : holdOf rest = none) (hb : b = 0x43#8 ∨ b = 0x15#8) : step s = .next
      (State.xmNext { s.atTurn rest with xmStat := ⟨.send, b == 0x43#8, s.xmStat.blk, s.xmStat.retry⟩ }) :=
  (State.step_of_initiation_byte hq hc ht hh).trans
    (congrArg Host.Outcome.next ((s.atTurn rest).xmInitByte_of_C_or_NAK b hb))

/-- `ACK`: the packet counts, its progress event is emitted, and the send loop goes on (R199, R203). -/
theorem State.step_of_packet_acked {sent : Word} (hc : s.cont = some .xmPacket) (ht : s.turns = .peer 0x06#8 :: rest)
    (hh : holdOf rest = none) (hk : s.xmK.toNat < xmPackets s.xmTotal.toNat)
    (hsent : BitVec.ofNat 32 (min ((s.xmK.toNat + 1) * 1024) s.xmTotal.toNat) = sent) :
    step s = .next (State.xmNext { s.atTurn rest with
      xmK := BitVec.ofNat 32 (s.xmK.toNat + 1)
      xmSent := sent
      evt := s.evt ++ [.progress sent s.xmTotal (BitVec.ofNat 32 (s.xmK.toNat + 1))
        (BitVec.ofNat 32 (s.xmK.toNat * 1024))] }) := by
  subst hsent
  exact (State.step_of_packet_response hq hc ht hh).trans
    (congrArg Host.Outcome.next ((s.atTurn rest).xmPacketByte_ack hk))

theorem State.step_of_initiation_timeout (hc : s.cont = some .xmInit) (ht : s.turns = .timeout :: rest) :
    step s = .next (s.atTurn rest).xmInitTimeout :=
  State.step_of_xmodem_timeout hq hc (by simp) ht fun _ => .inl rfl

/-- A packet that is not acknowledged, by `Timeout` or by a byte other than `ACK` and `CAN`, failed (R200). -/
theorem State.step_of_packet_failed (hc : s.cont = some .xmPacket) (ht : s.turns = e :: rest)
    (he : e = .timeout ∨ (holdOf rest = none ∧ ∃ r, e = .peer r ∧ r ≠ 0x06#8 ∧ r ≠ 0x18#8)) :
    step s = .next ((s.atTurn rest).xmRetry State.xmTransmitPacket) := by
  rcases he with rfl | ⟨hh, r, rfl, hack, hcan⟩
  · exact State.step_of_xmodem_timeout hq hc (by simp) ht fun t => xmStops_retry t xmStops_transmitPacket
  · exact (State.step_of_packet_response hq hc ht hh).trans
      (congrArg Host.Outcome.next (State.xmPacketByte_of_other _ hack hcan))

/-- An `EOT` that is not acknowledged failed in the same way (R204). -/
theorem State.step_of_eot_failed (hc : s.cont = some .xmEot) (ht : s.turns = e :: rest)
    (he : e = .timeout ∨ (holdOf rest = none ∧ ∃ r, e = .peer r ∧ r ≠ 0x06#8 ∧ r ≠ 0x18#8)) :
    step s = .next ((s.atTurn rest).xmRetry State.xmTransmitEot) := by
  rcases he with rfl | ⟨hh, r, rfl, hack, hcan⟩
  · exact State.step_of_xmodem_timeout hq hc (by simp) ht fun t => xmStops_retry t xmStops_transmitEot
  · exact (State.step_of_eot_response hq hc ht hh).trans
      (congrArg Host.Outcome.next (State.xmEotResponse_of_other _ hack hcan))

end Turns

/-- Settles O32: a byte that chooses no mode and the `Timeout` abort; else the loop begins, with a packet or with the `EOT`. -/
theorem xmInitiation : Obligations.XmInitiation := by
  intro s e rest hcont hq ht hh
  have hleft (hpos : 0 < s.xmTotal.toNat) : 0 < xmPackets s.xmTotal.toNat := by
    rw [xmPackets_eq]
    omega
  have hnone (hempty : s.xmTotal = 0#32) : xmPackets s.xmTotal.toNat ≤ s.xmK.toNat := by
    rw [hempty]
    exact Nat.zero_le _
  have hk0 (hk : s.xmK = 0#32) : s.xmK.toNat = 0 := congrArg BitVec.toNat hk
  refine ⟨fun b he hC hNak => ?other, fun he => ?timeout, fun b p he hb hc hw hk hpos hp => ?packet,
    fun b he hb hc hw hk => ?writeFails, fun b he hb hc hw hk hempty => ?eot⟩
  case other =>
    subst he
    exact (State.step_of_initiation_byte hq hcont ht hh).trans
      (congrArg Host.Outcome.next (State.xmInitByte_of_other _ hC hNak))
  case timeout =>
    subst he
    exact State.step_of_initiation_timeout hq hcont ht
  case packet =>
    rw [State.step_of_mode_byte hq hcont (he ▸ ht) hh hb, State.xmNext_sends_packet (k := 0) (p := p)]
    exacts [rfl, hk0 hk, hleft hpos, hp, hc, hw]
  case writeFails =>
    by_cases hempty : s.xmTotal = 0#32
    case pos =>
      rw [State.step_of_mode_byte hq hcont (he ▸ ht) hh hb, if_pos hempty, State.xmNext_of_eot_write_fails]
      exacts [rfl, hnone hempty, hc, hw]
    case neg =>
      have hpos : 0 < s.xmTotal.toNat := Nat.pos_of_ne_zero fun h => hempty (BitVec.eq_of_toNat_eq h)
      rw [State.step_of_mode_byte hq hcont (he ▸ ht) hh hb, if_neg hempty, State.xmNext_of_packet_write_fails (k := 0)]
      exacts [rfl, hk0 hk, hleft hpos, hc, hw]
  case eot =>
    rw [State.step_of_mode_byte hq hcont (he ▸ ht) hh hb, State.xmNext_sends_eot]
    exacts [rfl, hnone hempty, hc, hw]

/-- Settles O34: `ACK`, `CAN`, and what failed: the limit, the `EOT` again, the write that fails. -/
theorem xmEotResponse : Obligations.XmEotResponse := by
  intro s e rest n limit hcont hq ht hh hn hlimit
  rw [← s.xmLimit_eq] at hlimit
  subst hn hlimit
  refine ⟨fun he => ?ack, fun he => ?can, fun he => ?failed⟩
  case ack =>
    subst he
    rw [State.step_of_eot_response hq hcont ht hh, ← setWidth_ofBool]
    rfl
  case can =>
    subst he
    exact State.step_of_eot_response hq hcont ht hh
  case failed =>
    rw [State.step_of_eot_failed hq hcont ht (he.imp_right fun hr => ⟨hh, hr⟩)]
    refine ⟨fun hmax => ?limit, fun hleft hc hw => ?again, fun hleft hc hw => ?writeFails⟩
    case limit => exact congrArg Host.Outcome.next ((s.atTurn rest).xmRetry_of_limit_reached _ hmax)
    case again =>
      rw [(s.atTurn rest).xmRetry_sends_eot hleft hc hw]
      exact congrArg Host.Outcome.next (State.waiting_eq_of_cont hcont rfl)
    case writeFails => exact congrArg Host.Outcome.next ((s.atTurn rest).xmRetry_of_eot_write_fails hleft hc hw)

/-- Settles O33: `CAN`, what failed, and `ACK`, after which the next packet or the `EOT` is transmitted, or cannot be. -/
theorem xmPacketResponse : Obligations.XmPacketResponse := by
  intro s p e rest n limit hcont hq ht hh hn hk hp hlimit
  rw [← s.xmLimit_eq] at hlimit
  subst hn hlimit
  have hsucc : (BitVec.ofNat 32 (s.xmK.toNat + 1)).toNat = s.xmK.toNat + 1 := by
    rw [BitVec.toNat_ofNat, Nat.mod_eq_of_lt (succ_lt_of_lt_xmPackets _ _ hk)]
  have hnone (hlast : s.xmK.toNat + 1 = xmPackets s.xmTotal.toNat) :
      xmPackets s.xmTotal.toNat ≤ (BitVec.ofNat 32 (s.xmK.toNat + 1)).toNat := hsucc.symm ▸ hlast.ge
  have hpart (hleft : s.xmK.toNat + 1 < xmPackets s.xmTotal.toNat) :
      BitVec.ofNat 32 (min ((s.xmK.toNat + 1) * 1024) s.xmTotal.toNat) = BitVec.ofNat 32 ((s.xmK.toNat + 1) * 1024) := by
    rw [xmPackets_eq] at hleft
    rw [Nat.min_eq_left (by omega)]
  have hall (hlast : s.xmK.toNat + 1 = xmPackets s.xmTotal.toNat) :
      BitVec.ofNat 32 (min ((s.xmK.toNat + 1) * 1024) s.xmTotal.toNat) = s.xmTotal := by
    rw [xmPackets_eq] at hlast
    rw [Nat.min_eq_right (by omega), BitVec.ofNat_toNat, BitVec.setWidth_eq]
  refine ⟨fun he => ?can, fun he => ?failed, fun he hc hw => ⟨fun hleft => ?nextPacket, fun hlast => ?eot⟩,
    fun he hc hw => ⟨fun hleft => ?nextPacketFails, fun hlast => ?eotFails⟩⟩
  case can =>
    subst he
    exact State.step_of_packet_response hq hcont ht hh
  case failed =>
    rw [State.step_of_packet_failed hq hcont ht (he.imp_right fun hr => ⟨hh, hr⟩)]
    refine ⟨fun hmax => ?limit, fun hleft hc hw => ?again, fun hleft hc hw => ?writeFails⟩
    case limit => exact congrArg Host.Outcome.next ((s.atTurn rest).xmRetry_of_limit_reached _ hmax)
    case again =>
      rw [(s.atTurn rest).xmRetry_sends_packet hleft hp hc hw]
      exact congrArg Host.Outcome.next (State.waiting_eq_of_cont hcont rfl)
    case writeFails => exact congrArg Host.Outcome.next ((s.atTurn rest).xmRetry_of_packet_write_fails hleft hc hw)
  case nextPacket =>
    rw [State.step_of_packet_acked hq hcont (he ▸ ht) hh hk (hpart hleft),
      State.xmNext_sends_packet (p := p) (k := s.xmK.toNat + 1)]
    exacts [congrArg Host.Outcome.next (State.waiting_eq_of_cont hcont rfl), hsucc, hleft, hp, hc, hw]
  case nextPacketFails =>
    rw [State.step_of_packet_acked hq hcont (he ▸ ht) hh hk (hpart hleft),
      State.xmNext_of_packet_write_fails (k := s.xmK.toNat + 1)]
    exacts [rfl, hsucc, hleft, hc, hw]
  case eot =>
    rw [State.step_of_packet_acked hq hcont (he ▸ ht) hh hk (hall hlast), State.xmNext_sends_eot, ← hlast]
    exacts [rfl, hnone hlast, hc, hw]
  case eotFails =>
    rw [State.step_of_packet_acked hq hcont (he ▸ ht) hh hk (hall hlast), State.xmNext_of_eot_write_fails, ← hlast]
    exacts [rfl, hnone hlast, hc, hw]

end Sys2Proof.Machine
end

section
/-! A whole transfer that the peer acknowledges (O30), and the checkpoints (O35). The send loop is said once for the state at
its head: a packet acknowledged leads to its head again (`State.settle_xmNext_of_packet_acked`), so the states at the head are
`State.xmAcked` for 0, 1, 2, ... packets, up to the last, where the `EOT` ends the transfer. -/

namespace Sys2Proof.Machine

section Begin

variable (s : State)

/-- A wait for one byte whose byte is queued: it is taken, and `go` says what then. -/
theorem State.settle_waiting_of_byte {c : Cont} {b : Byte} {q : List Byte} {go : State → Byte → State}
    (hx : c ∈ [.xmInit, .xmPacket, .xmEot]) (hu : s.unheld) (hq : s.rxq = b :: q)
    (hresume : ∀ (t : State) q, t.rxq = b :: q → t.resume c = go (t.rxDrop 1) b) :
    (s.waiting c).settle = (go { s with cont := none, rxq := q } b).settle := by
  obtain rfl : s.rxq.drop 1 = q := congrArg (List.drop 1) hq
  have hready : (s.waiting c).contReady c = true := 
    ((s.waiting c).contReady_xmodem_iff c hx).2 (List.ne_nil_of_mem (hq ▸ List.mem_cons_self))
  exact ((s.waiting c).settle_of_contReady c rfl hu hready).trans
    (congrArg State.settle (hresume (s.waiting c).uncont _ hq))

/-- The initiation byte is queued and chooses the mode: `XM.SEND` goes on at the head of the send loop (R193, R198). -/
theorem exec_xmSend_of_mode_byte {b : Byte} {q : List Byte} (ho : s.ctrl.opened = true) (hfit : fits s.x.x0 s.x.x1.toNat)
    (hq : s.rxq = b :: q) (hu : s.unheld) (hb : b = 0x43#8 ∨ b = 0x15#8) :
    exec .xmSend s = .next (State.xmNext { s with
      cont := none
      xmBase := s.x.x0
      xmTotal := s.x.x1
      xmK := 0#32
      xmSent := 0#32
      xmStat := ⟨.send, b == 0x43#8, 0#8, 0#8⟩
      rxq := q }).settle := by
  refine congrArg Host.Outcome.next ?_
  calc s.xmSendStart.settle
    _ = (s.xmLatch.waiting .xmInit).settle := congrArg State.settle (s.xmSendStart_of_fits ho hfit)
    _ = (State.xmInitByte { s.xmLatch with cont := none, rxq := q } b).settle :=
      s.xmLatch.settle_waiting_of_byte (by simp) hu hq fun t => t.resume_xmInit_of_cons b
    _ = _ := congrArg State.settle (State.xmInitByte_of_C_or_NAK _ b hb)

/-! ### The head of the loop, the acknowledgement queued (R199, R203, R204) -/

variable {s} {p q : List Byte} (hu : s.unheld) (hq : s.rxq = 0x06#8 :: q) (hc : s.ctrl.cancel = false)
  (hw : s.env.writeFails = false)
include hu hq hc hw

theorem State.settle_xmNext_of_packet_acked {k : Nat} (hk : s.xmK.toNat = k) (hleft : k < xmPackets s.xmTotal.toNat)
    (hp : s.pbuf.shows s.xmBase.toNat s.xmTotal.toNat p) :
    s.xmNext.settle = (State.xmNext { s.wrote with
      cont := none
      rxq := q
      tx := s.tx ++ xmPacket p s.xmCfg.pad s.xmStat.mode k
      xmStat := { s.xmStat with blk := xmBlk k, retry := 0#8 }
      xmK := BitVec.ofNat 32 (k + 1)
      xmSent := BitVec.ofNat 32 (min ((k + 1) * 1024) s.xmTotal.toNat)
      evt := s.evt ++ [.progress (BitVec.ofNat 32 (min ((k + 1) * 1024) s.xmTotal.toNat)) s.xmTotal
        (BitVec.ofNat 32 (k + 1)) (BitVec.ofNat 32 (k * 1024))] }).settle := by
  subst hk
  rw [s.xmNext_sends_packet rfl hleft hp hc hw, State.settle_waiting_of_byte (b := 0x06#8) (q := q) (go := State.xmPacketByte)]
  exacts [congrArg State.settle (State.xmPacketByte_ack _ hleft), by simp, hu, hq,
    fun t => t.resume_xmPacket_of_cons 0x06#8]

theorem State.settle_xmNext_of_eot_acked (hnone : xmPackets s.xmTotal.toNat ≤ s.xmK.toNat) :
    s.xmNext.settle = State.succeeded { s.wrote with
      rxq := q
      tx := s.tx ++ [0x04#8]
      xmStat := { s.xmStat with state := .done, retry := 0#8 }
      x := { s.x with
        x6 := BitVec.ofNat 32 (xmPackets s.xmTotal.toNat)
        x7 := if s.xmStat.mode then 1#32 else 0#32 } } := by
  rw [s.xmNext_sends_eot hnone hc hw, State.settle_waiting_of_byte (b := 0x06#8) (q := q) (go := State.xmEotResponse),
    ← setWidth_ofBool]
  exacts [State.settle_complete _, by simp, hu, hq, fun t => t.resume_xmEot_of_cons 0x06#8]

end Begin

/-! ### From the head of the loop to the end, everything acknowledged -/

/-- `s`, in which `XM.SEND` begins, at the head of the send loop once the first `k` packets are acknowledged: each transmitted
once, one queued `ACK` taken and one progress event emitted for each. -/
def State.xmAcked (s : State) (p : List Byte) (crc : Bool) (k : Nat) : State :=
  { s with
    cont := none
    xmBase := s.x.x0
    xmTotal := s.x.x1
    xmK := BitVec.ofNat 32 k
    xmSent := BitVec.ofNat 32 (min (k * 1024) s.x.x1.toNat)
    xmStat := ⟨.send, crc, BitVec.ofNat 8 k, 0#8⟩
    rxq := s.rxq.drop (k + 1)
    tx := s.tx ++ (List.range k).flatMap (fun j => xmPacket p s.xmCfg.pad crc j)
    evt := s.evt ++ (List.range k).map (fun j => .progress (BitVec.ofNat 32 (min ((j + 1) * 1024) s.x.x1.toNat)) s.x.x1
      (BitVec.ofNat 32 (j + 1)) (BitVec.ofNat 32 (j * 1024)))
    env := { s.env with writes := s.env.writes.drop k, drawn := s.env.drawn + k } }

/-- A scripted write passes, however many came before it. -/
theorem writeFails_of_writesPass {s : State} {n k drawn : Nat} (h : s.writesPass n) (hk : k < n) :
    EnvScript.writeFails { s.env with writes := s.env.writes.drop k, drawn := drawn } = false := by
  obtain ⟨hlen, hpass⟩ := h
  have hin : k < s.env.writes.length := by omega
  simp only [EnvScript.writeFails, List.drop_eq_getElem_cons hin]
  exact hpass _ (List.mem_take_iff_getElem.2 ⟨k, by omega, rfl⟩)

section Delivery

variable {s : State} {p rest : List Byte} {b : Byte} {n : Nat} (hu : s.unheld) (hcancel : s.ctrl.cancel = false)
  (hp : s.pbuf.shows s.x.x0.toNat s.x.x1.toNat p) (hn : n = xmPackets s.x.x1.toNat)
  (hq : s.rxq = b :: (List.replicate (n + 1) 0x06#8 ++ rest)) (hw : s.writesPass (n + 1))

/-- As many `ACK`s are queued as there are packets, and one more. -/
theorem drop_acks {q rest : List Byte} {b : Byte} {n k : Nat} (hq : q = b :: (List.replicate (n + 1) 0x06#8 ++ rest))
    (hk : k ≤ n) : q.drop (k + 1) = 0x06#8 :: q.drop (k + 2) := by
  have hack : q[k + 1]? = some 0x06#8 := by
    have hin : k < (List.replicate (n + 1) 0x06#8).length := by
      rw [List.length_replicate]
      omega
    rw [hq, List.getElem?_cons_succ, List.getElem?_append_left hin, List.getElem?_replicate, if_pos (by omega)]
  obtain ⟨hlt, hget⟩ := List.getElem?_eq_some_iff.1 hack
  rw [List.drop_eq_getElem_cons hlt, hget]

include hu hcancel hp hn hq hw in
/-- One round of the loop. -/
theorem State.xmAcked_round (crc : Bool) {k : Nat} (hk : k < n) :
    (s.xmAcked p crc k).xmNext.settle = (s.xmAcked p crc (k + 1)).xmNext.settle := by
  have hcount : (BitVec.ofNat 32 k).toNat = k := by
    have := s.x.x1.isLt
    rw [xmPackets_eq] at hn
    rw [BitVec.toNat_ofNat]
    omega
  have hround := State.settle_xmNext_of_packet_acked (s := s.xmAcked p crc k) hu (drop_acks hq hk.le) hcancel
    (writeFails_of_writesPass hw (by omega)) hcount (hn ▸ hk) hp
  rw [hround]
  refine congrArg (fun t : State => t.xmNext.settle) ?_
  simp only [State.xmAcked, State.wrote, List.range_succ, List.flatMap_append, List.flatMap_singleton, List.map_append,
    List.map_singleton, List.append_assoc, List.tail_drop, Nat.add_assoc, xmBlk]

include hu hcancel hp hn hq hw in
/-- All `n` rounds. -/
theorem State.xmAcked_rounds (crc : Bool) {k : Nat} (hk : k ≤ n) :
    (s.xmAcked p crc 0).xmNext.settle = (s.xmAcked p crc k).xmNext.settle := by
  induction k with
  | zero => rfl
  | succ k ih => exact (ih (by omega)).trans (State.xmAcked_round hu hcancel hp hn hq hw crc hk)

end Delivery

/-- Settles O30: the loop begins with no packet acknowledged, `n` rounds acknowledge all (`State.xmAcked_rounds`), and the `EOT`
ends the transfer. -/
theorem xmSendDelivers : Obligations.XmSendDelivers := by
  refine ⟨decode_encode (i := .xmSend) rfl, fun s p rest b n ho hcancel hfit hp hb hn hq hw hu => ?_⟩
  have hcount : (BitVec.ofNat 32 n).toNat = n := by
    have := s.x.x1.isLt
    rw [BitVec.toNat_ofNat]
    omega
  have hsent : BitVec.ofNat 32 (min (n * 1024) s.x.x1.toNat) = s.x.x1 := by
    rw [Nat.min_eq_right (by omega), BitVec.ofNat_toNat, BitVec.setWidth_eq]
  have hbegin : exec .xmSend s = .next (s.xmAcked p (b == 0x43#8) 0).xmNext.settle := by
    rw [exec_xmSend_of_mode_byte s ho hfit hq hu hb]
    simp [State.xmAcked, hq]
  have hend := State.settle_xmNext_of_eot_acked (s := s.xmAcked p (b == 0x43#8) n) hu (drop_acks hq le_rfl) hcancel
    (writeFails_of_writesPass hw (by omega)) (hcount.symm ▸ hn.ge)
  have hrest : s.rxq.drop (n + 2) = rest := by rw [hq]; simp
  rw [hbegin, State.xmAcked_rounds hu hcancel hp hn hq hw _ le_rfl, hend]
  simp only [State.xmAcked, State.wrote, State.succeeded, State.ended, xmPackets_eq, ← hn, hsent, hrest, List.tail_drop,
    beq_iff_eq, Nat.add_assoc]

/-! ### The checkpoint of `BR.NEG.BK` (R238, R337) -/

section BkCancel

variable (s : State)

theorem State.bkAttempt_of_cancel (cmd : List Byte) (hc : s.ctrl.cancel = true) :
    s.bkAttempt cmd = State.faulted { s with
      brStat := { s.brStat with state := .failed }
      evt := s.evt ++ [.log .warning .cancelled] } 0x09#8 0#32 := s.checkpoint_of_cancel _ _ hc

theorem State.withRate_of_nonzero (go : State → State) (h : s.x.x2 ≠ 0#32) : s.withRate go = go s := if_neg h

/-- All four checks passed: the latch, and the first attempt. -/
theorem State.bkStart_of_fits (ho : s.ctrl.opened = true) (hin : fits s.x.x0 s.x.x1.toNat)
    (hout : fits s.x.x3 s.x.x4.toNat) (hrate : s.x.x2 ≠ 0#32) :
    s.bkStart = s.brLatch.bkAttempt (s.pbuf.bytes s.x.x0.toNat s.x.x1.toNat) := by
  unfold State.bkStart
  rw [s.inContext_of_opened _ ho, s.withInput_of_fits _ hin, s.withRange_of_fits _ _ _ hout, s.withRate_of_nonzero _ hrate]

theorem State.brLimit_eq : s.brLimit = max 1 (10 + if s.params.brFirstExtra then 1 else 0) := by
  unfold State.brLimit
  cases s.params.brFirstExtra <;> rfl

/-- No response, and an attempt left: the transport reverts to 115 200, and the next attempt begins (R238). -/
theorem State.bkRespTimeout_of_attempt_left (cmd : List Byte) (h : s.brStat.attempt.toNat < s.brLimit) :
    s.bkRespTimeout cmd = ((s.setBaud 115200#32).brSetState .reverted).bkAttempt cmd := if_neg h.not_ge

end BkCancel

/-- Settles O35: each checkpoint is reached with the flag set, which ends the operation there (`State.checkpoint_of_cancel`). -/
theorem cancelledAtCheckpoint : Obligations.CancelledAtCheckpoint := by
  intro s hc
  refine ⟨fun b q ho hfit hq hu hb => ?queued, fun b rest hcont hq ht hh hb => ?initiation,
    fun rest hcont hq ht hh hk => ?acked, fun e rest limit hcont hq ht he hlimit hleft => ?retransmission,
    fun ho hin hout hrate => ?firstAttempt, fun c rest limit hcont hmissing ht hlimit hleft => ?laterAttempt⟩
  case queued =>
    rw [exec_xmSend_of_mode_byte s ho hfit hq hu hb, State.xmNext_of_cancel]
    exacts [congrArg Host.Outcome.next (State.settle_of_idle _ rfl), hc]
  case initiation =>
    rw [State.step_of_mode_byte hq hcont ht hh hb, State.xmNext_of_cancel]
    exacts [rfl, hc]
  case acked =>
    rw [State.step_of_packet_acked hq hcont ht hh hk rfl, State.xmNext_of_cancel, List.append_assoc]
    exacts [rfl, hc]
  case retransmission =>
    rw [← s.xmLimit_eq] at hlimit
    subst hlimit
    rcases hcont with hpacket | heot
    · exact (State.step_of_packet_failed hq hpacket ht he).trans
        (congrArg Host.Outcome.next ((s.atTurn rest).xmRetry_of_cancel (.inl rfl) hleft hc))
    · exact (State.step_of_eot_failed hq heot ht he).trans
        (congrArg Host.Outcome.next ((s.atTurn rest).xmRetry_of_cancel (.inr rfl) hleft hc))
  case firstAttempt =>
    refine congrArg Host.Outcome.next ?_
    rw [s.bkStart_of_fits ho hin hout hrate, s.brLatch.bkAttempt_of_cancel _ hc]
    exact State.settle_of_idle _ rfl
  case laterAttempt =>
    rw [← s.brLimit_eq] at hlimit
    subst hlimit
    have hready : s.contReady (.bkResp c) = false := decide_eq_false hmissing.not_ge
    refine (s.step_of_timeout_not_contReady (.bkResp c) rest hcont ht hready).trans (congrArg Host.Outcome.next ?_)
    calc ((s.atTurn rest).bkRespTimeout c).settle
      _ = ((((s.atTurn rest).setBaud 115200#32).brSetState .reverted).bkAttempt c).settle :=
        congrArg State.settle ((s.atTurn rest).bkRespTimeout_of_attempt_left c hleft)
      _ = _ := congrArg State.settle (State.bkAttempt_of_cancel _ c hc)
      _ = _ := State.settle_of_idle _ rfl

end Sys2Proof.Machine
end

section
/-! `BR.SET` and `BR.NEG.BK` (O36 to O39). An attempt of `BR.NEG.BK` whose command is written leads to its delay
(`State.bkCommanded`), and the delay to the wait at the target rate or, the response queued, to the end (`State.bkAnswered`). The
first attempt and every later one go through these same rules; what differs is the state they begin in. -/

namespace Sys2Proof.Machine

section Rate

variable (s : State)

/-! ### The checks, the rate and the write (R232, R234, R340) -/

theorem State.withRate_of_zero (go : State → State) (h : s.x.x2 = 0#32) : s.withRate go = s.raise .illegalOperand 2#32 :=
  if_pos h

theorem State.inContext_withRate_of_zero (go : State → State) (ho : s.ctrl.opened = true) (hr : s.x.x2 = 0#32) :
    (s.inContext fun t => t.withRate go) = s.faulted 0x13#8 2#32 :=
  (s.inContext_of_opened _ ho).trans (s.withRate_of_zero _ hr)

theorem State.inContext_withRate_of_nonzero (go : State → State) (ho : s.ctrl.opened = true) (hr : s.x.x2 ≠ 0#32) :
    (s.inContext fun t => t.withRate go) = go s :=
  (s.inContext_of_opened _ ho).trans (s.withRate_of_nonzero _ hr)

theorem State.txPut_of_nonempty_fails {bs : List Byte} (fail ok : State → State) (hne : bs ≠ [])
    (hw : s.env.writeFails = true) : s.txPut bs fail ok = fail s.wrote := by
  cases bs with
  | nil => exact absurd rfl hne
  | cons b bs => exact s.txPut_of_write_fails b bs fail ok hw

theorem State.txPut_of_nonempty_passes {bs : List Byte} (fail ok : State → State) (hne : bs ≠ [])
    (hw : s.env.writeFails = false) : s.txPut bs fail ok = ok { s.wrote with tx := s.tx ++ bs } := by
  cases bs with
  | nil => exact absurd rfl hne
  | cons b bs => exact s.txPut_of_write_passes b bs fail ok hw

/-- What a turn taken at a wait leaves as it was, and the schedule after it. -/
theorem State.agentMoved_keeps {s u : State} (h : s.agentMoved u) :
    u.unheld ∧ u.x = s.x ∧ u.pbuf = s.pbuf ∧ u.brStat = s.brStat ∧ u.brTarget = s.brTarget := by
  rcases h with ⟨ht, rfl⟩ | ⟨rest, hh, ⟨b, _, rfl⟩ | ⟨_, rfl⟩ | ⟨_, rfl⟩ | ⟨r, _, rfl⟩⟩
  · exact ⟨congrArg holdOf ht, rfl, rfl, rfl, rfl⟩
  all_goals exact ⟨hh, rfl, rfl, rfl, rfl⟩

/-! ### `BR.SET` (R234) -/

theorem exec_brSet_of_zero (ho : s.ctrl.opened = true) (hr : s.x.x2 = 0#32) :
    exec .brSet s = .next (s.faulted 0x13#8 2#32) :=
  congrArg Host.Outcome.next (s.inContext_withRate_of_zero _ ho hr)

theorem exec_brSet_of_nonzero (ho : s.ctrl.opened = true) (hr : s.x.x2 ≠ 0#32) :
    exec .brSet s = .next (s.rateSet s.x.x2).succeeded :=
  congrArg Host.Outcome.next (s.inContext_withRate_of_nonzero _ ho hr)

theorem State.rateSet_rxq_of_keep (r : Word) {more : List RxqDraw} (h : s.env.rxqs = .keep :: more) :
    (s.rateSet r).rxq = s.rxq := by
  simp [State.rateSet, EnvScript.newRxq, h]

theorem State.rateSet_rxq_of_replace (r : Word) {q : List Byte} {more : List RxqDraw}
    (h : s.env.rxqs = .replace q :: more) : (s.rateSet r).rxq = q := by
  simp [State.rateSet, EnvScript.newRxq, h]

end Rate

/-- Settles O36: the two checks in their order, then the rate, with the draw that the environment's script gives. -/
theorem brSetRate : Obligations.BrSetRate :=
  ⟨decode_encode (i := .brSet) rfl, fun s => ⟨fun ho => exec_of_not_opened s .brSet ho rfl, exec_brSet_of_zero s,
    fun ho hr => ⟨exec_brSet_of_nonzero s ho hr, fun _ => s.rateSet_rxq_of_keep _, fun _ _ => s.rateSet_rxq_of_replace _⟩⟩⟩

/-! ### The pieces of `BR.NEG.BK` (R237, R238) -/

section Bk

variable (s : State) {cmd : List Byte}

/-- `s` once an attempt has begun and its command is written; the empty one needs no write (R237). -/
def State.bkCommanded (s : State) (cmd : List Byte) : State :=
  { (if cmd = [] then s else s.wrote) with
    tx := s.tx ++ cmd
    brStat := ⟨.cmdSent, BitVec.ofNat 5 (s.brStat.attempt.toNat + 1)⟩ }

/-- `s` after `BR.NEG.BK` has stored the `x[4]` bytes of its response (R238). -/
def State.bkAnswered (s : State) : State :=
  State.succeeded { s with
    pbuf := s.pbuf.storeBytes s.x.x3.toNat (s.rxq.take s.x.x4.toNat)
    rxq := s.rxq.drop s.x.x4.toNat
    brStat := { s.brStat with state := .done }
    x := { s.x with x6 := s.brStat.attempt.setWidth 32 } }

theorem State.bkCommanded_keeps (cmd : List Byte) : (s.bkCommanded cmd).turns = s.turns ∧ (s.bkCommanded cmd).x = s.x ∧
    (s.bkCommanded cmd).brTarget = s.brTarget := by
  unfold State.bkCommanded
  split <;> exact ⟨rfl, rfl, rfl⟩

theorem attempt_succ (n : BitVec 5) : n + 1#5 = BitVec.ofNat 5 (n.toNat + 1) := by simp [BitVec.ofNat_add]

theorem State.bkAttempt_of_command_passes (hc : s.ctrl.cancel = false) (hw : cmd = [] ∨ s.env.writeFails = false) :
    s.bkAttempt cmd = (s.bkCommanded cmd).waiting (.bkFlush cmd) := by
  unfold State.bkAttempt
  rw [s.checkpoint_of_not_cancel _ _ hc, attempt_succ]
  by_cases hempty : cmd = []
  case pos =>
    subst hempty
    rw [State.bkCommanded, if_pos rfl, List.append_nil]
    rfl
  case neg =>
    rw [State.bkCommanded, if_neg hempty]
    exact State.txPut_of_nonempty_passes _ _ _ hempty (hw.resolve_left hempty)

theorem State.bkAttempt_of_write_fails (hc : s.ctrl.cancel = false) (hne : cmd ≠ []) (hw : s.env.writeFails = true) :
    s.bkAttempt cmd = State.faulted { s.wrote with
      brStat := ⟨.failed, BitVec.ofNat 5 (s.brStat.attempt.toNat + 1)⟩ } 0x02#8 0#32 := by
  rw [← attempt_succ]
  exact (s.checkpoint_of_not_cancel _ _ hc).trans (State.txPut_of_nonempty_fails _ _ _ hne hw)

/-- The range is checked again when the response is stored, and a range that fits passes. -/
theorem State.bkRespReady_eq (hfit : fits s.x.x3 s.x.x4.toNat) (hlen : s.x.x4.toNat ≤ s.rxq.length) :
    s.bkRespReady = s.bkAnswered := by
  have htaken : (s.rxq.take s.x.x4.toNat).length = s.x.x4.toNat := List.length_take_of_le hlen
  exact State.memWrite_of_fits _ _ _ _ _ (htaken.symm ▸ hfit)

/-- The delay over, bytes of the response are missing: the wait at the target rate. -/
theorem State.settle_bkFlushed_of_missing (hlen : (s.rateSet s.brTarget).rxq.length < s.x.x4.toNat) :
    (s.bkFlushed cmd).settle = State.waiting { s.rateSet s.brTarget with
      brStat := { s.brStat with state := .switched } } (.bkResp cmd) := by
  have hsome : ¬ decide (s.x.x4 = 0#32) = true := by
    intro h
    rw [of_decide_eq_true h] at hlen
    exact absurd hlen (Nat.not_lt_zero _)
  have hwait : s.bkFlushed cmd = ((s.rateSet s.brTarget).brSetState .switched).suspend (.bkResp cmd) := if_neg hsome
  rw [hwait]
  exact State.settle_of_not_contReady _ (.bkResp cmd) rfl (decide_eq_false hlen.not_ge)

theorem State.settle_bkRespReady (hlen : s.x.x4.toNat ≤ s.rxq.length) (hfit : fits s.x.x3 s.x.x4.toNat) :
    s.bkRespReady.settle = s.bkAnswered :=
  (congrArg State.settle (s.bkRespReady_eq hfit hlen)).trans (State.settle_of_idle _ rfl)

theorem State.settle_suspend_bkResp (hu : s.unheld) (hlen : s.x.x4.toNat ≤ s.rxq.length)
    (hfit : fits s.x.x3 s.x.x4.toNat) : (s.suspend (.bkResp cmd)).settle = s.bkAnswered :=
  ((s.suspend (.bkResp cmd)).settle_of_contReady (.bkResp cmd) rfl hu (decide_eq_true hlen)).trans
    (s.uncont.settle_bkRespReady hlen hfit)

/-- The delay over, the response is queued: it ends the operation, the wait being entered or not. -/
theorem State.settle_bkFlushed_of_queued (hu : s.unheld) (hlen : s.x.x4.toNat ≤ (s.rateSet s.brTarget).rxq.length)
    (hfit : fits s.x.x3 s.x.x4.toNat) : (s.bkFlushed cmd).settle = (s.rateSet s.brTarget).bkAnswered :=
  State.suspendUnless_elim (P := fun t => t.settle = (s.rateSet s.brTarget).bkAnswered)
    ((s.rateSet s.brTarget).brSetState .switched) _ (.bkResp cmd) State.bkRespReady
    (fun _ => State.settle_bkRespReady _ hlen hfit) fun _ => State.settle_suspend_bkResp _ hu hlen hfit

/-! ### `BR.NEG.BK` from its start, and at its two suspension points -/

theorem State.bkStart_of_not_fits_input (ho : s.ctrl.opened = true) (hin : ¬ fits s.x.x0 s.x.x1.toNat) :
    s.bkStart = s.raise .bufferRange s.x.x0 :=
  (s.inContext_of_opened _ ho).trans (s.withInput_of_not_fits _ hin)

theorem State.bkStart_of_not_fits_output (ho : s.ctrl.opened = true) (hin : fits s.x.x0 s.x.x1.toNat)
    (hout : ¬ fits s.x.x3 s.x.x4.toNat) : s.bkStart = s.raise .bufferRange s.x.x3 :=
  (s.inContext_of_opened _ ho).trans ((s.withInput_of_fits _ hin).trans (s.withRange_of_not_fits _ _ _ hout))

theorem State.bkStart_of_zero_rate (ho : s.ctrl.opened = true) (hin : fits s.x.x0 s.x.x1.toNat)
    (hout : fits s.x.x3 s.x.x4.toNat) (hr : s.x.x2 = 0#32) : s.bkStart = s.raise .illegalOperand 2#32 :=
  (s.inContext_of_opened _ ho).trans
    ((s.withInput_of_fits _ hin).trans ((s.withRange_of_fits _ _ _ hout).trans (s.withRate_of_zero _ hr)))

theorem exec_brNegBk_of_raise {code : StatusCode} {info : Word} (h : s.bkStart = s.raise code info) :
    exec .brNegBk s = .next (s.faulted code.code info) :=
  congrArg Host.Outcome.next ((congrArg State.settle h).trans (s.settle_raise code info))

theorem exec_brNegBk_of_write_fails (ho : s.ctrl.opened = true) (hin : fits s.x.x0 s.x.x1.toNat)
    (hout : fits s.x.x3 s.x.x4.toNat) (hr : s.x.x2 ≠ 0#32) (hne : s.x.x1 ≠ 0#32) (hc : s.ctrl.cancel = false)
    (hw : s.env.writeFails = true) :
    exec .brNegBk s =
      .next (State.faulted { s.wrote with brTarget := s.x.x2, brStat := ⟨.failed, 1#5⟩ } 0x02#8 0#32) := by
  have hcmd : s.pbuf.bytes s.x.x0.toNat s.x.x1.toNat ≠ [] := by
    intro h
    have hlen : s.x.x1.toNat = 0 := by rw [← Memory.bytes_length s.pbuf s.x.x0.toNat s.x.x1.toNat, h, List.length_nil]
    exact hne (BitVec.eq_of_toNat_eq hlen)
  refine congrArg Host.Outcome.next ?_
  rw [s.bkStart_of_fits ho hin hout hr, s.brLatch.bkAttempt_of_write_fails hc hcmd hw]
  exact State.settle_of_idle _ rfl

/-- The delay is over once the block moves (R9). -/
theorem State.settle_waiting_bkFlush (hu : s.unheld) :
    (s.waiting (.bkFlush cmd)).settle = (s.uncont.bkFlushed cmd).settle :=
  State.settle_of_contReady _ (.bkFlush cmd) rfl hu rfl

/-- All checks passed, the command written and the response queued: the first attempt ends the operation (R237, R238). -/
theorem exec_brNegBk_of_queued (ho : s.ctrl.opened = true) (hc : s.ctrl.cancel = false) (hin : fits s.x.x0 s.x.x1.toNat)
    (hout : fits s.x.x3 s.x.x4.toNat) (hr : s.x.x2 ≠ 0#32) (hu : s.unheld)
    (hcmd : s.pbuf.bytes s.x.x0.toNat s.x.x1.toNat = cmd) (hw : cmd = [] ∨ s.env.writeFails = false) {t : State}
    (ht : s.brLatch.bkCommanded cmd = t) (hlen : s.x.x4.toNat ≤ (t.rateSet s.x.x2).rxq.length) :
    exec .brNegBk s = .next (t.rateSet s.x.x2).bkAnswered := by
  obtain ⟨hturns, hx, htarget⟩ : t.turns = s.turns ∧ t.x = s.x ∧ t.brTarget = s.x.x2 :=
    ht ▸ s.brLatch.bkCommanded_keeps cmd
  have hheld : t.unheld := (congrArg holdOf hturns).trans hu
  rw [← htarget, ← hx] at hlen
  rw [← hx] at hout
  refine congrArg Host.Outcome.next ?_
  rw [s.bkStart_of_fits ho hin (hx ▸ hout) hr, hcmd, s.brLatch.bkAttempt_of_command_passes hc hw, ht,
    t.settle_waiting_bkFlush hheld, ← htarget]
  exact t.uncont.settle_bkFlushed_of_queued hheld hlen hout

variable {s} {u : State}

theorem State.step_of_bkFlush_missing (hc : s.cont = some (.bkFlush cmd)) (hu : s.agentMoved u)
    (hlen : (u.rateSet u.brTarget).rxq.length < u.x.x4.toNat) :
    step s = .next (State.waiting { u.rateSet u.brTarget with
      brStat := { u.brStat with state := .switched } } (.bkResp cmd)) :=
  (s.step_of_agentMoved u (.bkFlush cmd) hc hu rfl).trans
    (congrArg Host.Outcome.next (u.uncont.settle_bkFlushed_of_missing hlen))

theorem State.step_of_bkFlush_queued (hc : s.cont = some (.bkFlush cmd)) (hu : s.agentMoved u)
    (hlen : u.x.x4.toNat ≤ (u.rateSet u.brTarget).rxq.length) (hfit : fits u.x.x3 u.x.x4.toNat) :
    step s = .next (u.rateSet u.brTarget).bkAnswered :=
  (s.step_of_agentMoved u (.bkFlush cmd) hc hu rfl).trans
    (congrArg Host.Outcome.next (u.uncont.settle_bkFlushed_of_queued (State.agentMoved_keeps hu).1 hlen hfit))

theorem State.step_of_bkResp_met (hc : s.cont = some (.bkResp cmd)) (hu : s.agentMoved u)
    (hlen : u.x.x4.toNat ≤ u.rxq.length) (hfit : fits u.x.x3 u.x.x4.toNat) : step s = .next u.bkAnswered :=
  (s.step_of_agentMoved u (.bkResp cmd) hc hu (decide_eq_true hlen)).trans
    (congrArg Host.Outcome.next (u.uncont.settle_bkRespReady hlen hfit))

/-- `s` back at 115 200, its response not come, the schedule being `rest` (R238). -/
abbrev State.bkReverted (s : State) (rest : List Turn) : State :=
  ((s.atTurn rest).rateSet 115200#32).brSetState .reverted

/-- `Timeout` while bytes of the response are missing (R238). -/
theorem State.step_of_bkResp_timeout {rest : List Turn} (hc : s.cont = some (.bkResp cmd))
    (hlen : s.rxq.length < s.x.x4.toNat) (ht : s.turns = .timeout :: rest) :
    step s = .next ((s.atTurn rest).bkRespTimeout cmd).settle :=
  s.step_of_timeout_not_contReady (.bkResp cmd) rest hc ht (decide_eq_false hlen.not_ge)

theorem State.step_of_bkResp_last_timeout {rest : List Turn} (hc : s.cont = some (.bkResp cmd))
    (hlen : s.rxq.length < s.x.x4.toNat) (ht : s.turns = .timeout :: rest) (hlast : s.brLimit ≤ s.brStat.attempt.toNat) :
    step s = .next ((s.bkReverted rest).brFail .baudNegotiationFailed (s.brStat.attempt.setWidth 32)) := by
  have hend : (s.atTurn rest).bkRespTimeout cmd =
      (s.bkReverted rest).brFail .baudNegotiationFailed (s.brStat.attempt.setWidth 32) := if_pos hlast
  rw [State.step_of_bkResp_timeout hc hlen ht, hend]
  exact congrArg Host.Outcome.next (State.settle_raise _ _ _)

theorem State.step_of_bkResp_timeout_retried {rest : List Turn} (hc : s.cont = some (.bkResp cmd))
    (hlen : s.rxq.length < s.x.x4.toNat) (ht : s.turns = .timeout :: rest) (hleft : s.brStat.attempt.toNat < s.brLimit) :
    step s = .next ((s.bkReverted rest).bkAttempt cmd).settle :=
  (State.step_of_bkResp_timeout hc hlen ht).trans (congrArg (fun t => Host.Outcome.next (State.settle t))
    ((s.atTurn rest).bkRespTimeout_of_attempt_left cmd hleft))

/-- Where the command of an attempt is written, the state register and the continuation before it do not count. -/
theorem State.waiting_bkCommanded_bkReverted (rest : List Turn) :
    ((s.bkReverted rest).bkCommanded cmd).waiting (.bkFlush cmd) =
      ((State.rateSet { s with turns := rest } 115200#32).bkCommanded cmd).waiting (.bkFlush cmd) := by
  unfold State.bkCommanded
  split <;> rfl

end Bk

/-- Settles O38: the checks in their order, and the first write. -/
theorem bkChecks : Obligations.BkChecks := fun s =>
  ⟨fun ho => exec_of_not_opened s .brNegBk ho rfl, fun ho hin => exec_brNegBk_of_raise s (s.bkStart_of_not_fits_input ho hin),
    fun ho hin hout => exec_brNegBk_of_raise s (s.bkStart_of_not_fits_output ho hin hout),
    fun ho hin hout hr => exec_brNegBk_of_raise s (s.bkStart_of_zero_rate ho hin hout hr), exec_brNegBk_of_write_fails s⟩

/-- Settles O37: an empty command needs no write and no draw; another one is written before the rate changes. -/
theorem bkFirstAttemptSucceeds : Obligations.BkFirstAttemptSucceeds := by
  refine ⟨decode_encode (i := .brNegBk) rfl, fun s r c ho hc hin hshow hout hrate hu hr hlen => ?_⟩
  have hcmd : s.pbuf.bytes s.x.x0.toNat s.x.x1.toNat = c := Memory.bytes_of_shows _ _ _ _ hshow
  have hempty : c = [] ↔ s.x.x1 = 0#32 := by
    rw [← List.length_eq_zero_iff, hshow.1, ← BitVec.toNat_inj]
    rfl
  rcases hr with ⟨h0, rfl⟩ | ⟨h0, hw, rfl⟩
  case inl =>
    obtain rfl := hempty.2 h0
    exact ⟨_, Memory.holds_storeBytes _ _ _, exec_brNegBk_of_queued s ho hc hin hout hrate hu hcmd (.inl rfl) rfl hlen⟩
  case inr =>
    have hwritten : s.brLatch.bkCommanded c = { s.wrote with
        tx := s.tx ++ c
        brTarget := s.x.x2
        brStat := ⟨.cmdSent, 1#5⟩ } := by
      rw [State.bkCommanded, if_neg (mt hempty.1 h0)]
      rfl
    exact ⟨_, Memory.holds_storeBytes _ _ _, exec_brNegBk_of_queued s ho hc hin hout hrate hu hcmd (.inr hw) hwritten hlen⟩

/-- Settles O39: the turns at the delay and at the wait, then the `Timeout`, which reverts and begins the next attempt. -/
theorem bkAttemptLoop : Obligations.BkAttemptLoop := by
  refine fun s u r w v c => ⟨fun hc hu hr => ?flush, fun hc hu hlen hfit => ?response,
    fun rest limit hc hlen ht hr hlimit => ?timeout⟩
  case flush =>
    obtain ⟨_, hx, hpbuf, hstat, htarget⟩ := State.agentMoved_keeps hu
    subst hr
    rw [← hx, ← hpbuf, ← hstat, ← htarget]
    exact ⟨State.step_of_bkFlush_missing hc hu,
      fun hlen hfit => ⟨_, Memory.holds_storeBytes _ _ _, State.step_of_bkFlush_queued hc hu hlen hfit⟩⟩
  case response =>
    obtain ⟨_, hx, hpbuf, hstat, _⟩ := State.agentMoved_keeps hu
    rw [← hx] at hlen hfit
    rw [← hx, ← hpbuf, ← hstat]
    exact ⟨_, Memory.holds_storeBytes _ _ _, State.step_of_bkResp_met hc hu hlen hfit⟩
  case timeout =>
    rw [← s.brLimit_eq] at hlimit
    subst hlimit hr
    have hretried := State.step_of_bkResp_timeout_retried hc hlen ht
    refine ⟨fun hlast => ?last, fun hleft hcancel => ?cancelled, fun hleft hcancel hw hwritten => ?again,
      fun hleft hcancel hne hw => ?writeFails⟩
    case last => exact State.step_of_bkResp_last_timeout hc hlen ht hlast
    case cancelled =>
      rw [hretried hleft, (s.bkReverted rest).bkAttempt_of_cancel c hcancel]
      exact congrArg Host.Outcome.next (State.settle_of_idle _ rfl)
    case again =>
      replace hwritten : (State.rateSet { s with turns := rest } 115200#32).bkCommanded c = w := hwritten.symm
      obtain ⟨hturns, hx, htarget⟩ : w.turns = rest ∧ w.x = s.x ∧ w.brTarget = s.brTarget :=
        hwritten ▸ State.bkCommanded_keeps (State.rateSet { s with turns := rest } 115200#32) c
      have hwait : step s = .next (w.waiting (.bkFlush c)).settle := by
        rw [hretried hleft, (s.bkReverted rest).bkAttempt_of_command_passes hcancel hw, State.waiting_bkCommanded_bkReverted,
          hwritten]
      rw [hwait]
      refine ⟨fun hh => ?rests, fun hh hv hmissing => ?goesOn⟩
      case rests => exact congrArg Host.Outcome.next (State.settle_of_hold_zero _ ((congrArg holdOf hturns).trans hh))
      case goesOn =>
        rw [← htarget] at hv
        rw [← hx] at hmissing
        subst hv
        rw [w.settle_waiting_bkFlush ((congrArg holdOf hturns).trans hh)]
        exact congrArg Host.Outcome.next (w.uncont.settle_bkFlushed_of_missing hmissing)
    case writeFails =>
      rw [hretried hleft, (s.bkReverted rest).bkAttempt_of_write_fails hcancel hne hw]
      exact congrArg Host.Outcome.next (State.settle_of_idle _ rfl)

end Sys2Proof.Machine
end

section
/-! `BR.NEG.ESP` and `BR.NEG.WM` (O40 to O42). The scan of `slip_scan` is said once for the two strings that end it, a frame and a
bad escape, each after bytes that are skipped (`slipScan_of_frame`, `slipScan_of_bad_escape`); the checks of `esp_response` once
for a well-formed response (`espReply`) and once for one that fails a check. -/

namespace Sys2Proof.Machine

/-! ### Words in bytes, and words of two halves (R12, R334) -/

theorem fromLe16_le16 (v : Half) : fromLe16 (le16 v) = v :=
  (BitVec.extractLsb'_append_extractLsb'_eq_extractLsb' (x := v) (by decide)).trans BitVec.extractLsb'_eq_self

theorem fromLe32_le32 (v : Word) : fromLe32 (le32 v) = v := by
  show v.extractLsb' 24 8 ++ v.extractLsb' 16 8 ++ v.extractLsb' 8 8 ++ v.extractLsb' 0 8 = v
  rw [BitVec.extractLsb'_append_extractLsb'_eq_extractLsb' (by decide),
    BitVec.extractLsb'_append_extractLsb'_eq_extractLsb' (by decide),
    BitVec.extractLsb'_append_extractLsb'_eq_extractLsb' (by decide)]
  exact BitVec.extractLsb'_eq_self

theorem toNat_fromLe16 (bs : List Byte) :
    (fromLe16 bs).toNat = (bs.getD 0 0#8).toNat + 256 * (bs.getD 1 0#8).toNat := by
  have := toNat_append_eq_add (bs.getD 1 0#8) (bs.getD 0 0#8)
  unfold fromLe16
  omega

theorem framingInfo_eq {reason detail : Half} {n m : Nat} (hn : reason.toNat = n) (hm : detail.toNat = m) :
    framingInfo reason detail = BitVec.ofNat 32 (n * 2 ^ 16 + m) := by
  subst hn hm
  apply BitVec.eq_of_toNat_eq
  have := toNat_append_eq_add reason detail
  rw [BitVec.toNat_ofNat, Nat.mod_eq_of_lt (by omega)]
  exact this

theorem toNat_setWidth_byte (b : Byte) : (b.setWidth 16).toNat = b.toNat := BitVec.toNat_setWidth_of_le (by decide)

/-! ### `slip_scan` (R281, R282) -/

section Body

variable (f rest : List Byte) (used : Nat)

theorem slipBody_of_end : slipBody f used (0xC0#8 :: rest) = .frame f (used + 1) := by rw [slipBody.eq_def]; rfl

theorem slipBody_of_escaped_C0 : slipBody f used (0xDB#8 :: 0xDC#8 :: rest) = slipBody (f ++ [0xC0#8]) (used + 2) rest := by
  rw [slipBody.eq_def]; rfl

theorem slipBody_of_escaped_DB : slipBody f used (0xDB#8 :: 0xDD#8 :: rest) = slipBody (f ++ [0xDB#8]) (used + 2) rest := by
  rw [slipBody.eq_def]; rfl

theorem slipBody_of_bad_escape {b : Byte} (hDC : b ≠ 0xDC#8) (hDD : b ≠ 0xDD#8) :
    slipBody f used (0xDB#8 :: b :: rest) = .error b (used + 2) := by
  rw [slipBody.eq_def]
  exact (if_neg hDC).trans (if_neg hDD)

theorem slipBody_of_plain {b : Byte} (hC0 : b ≠ 0xC0#8) (hDB : b ≠ 0xDB#8) :
    slipBody f used (b :: rest) = slipBody (f ++ [b]) (used + 1) rest := by
  rw [slipBody.eq_def]
  exact (if_neg hC0).trans (if_neg hDB)

end Body

/-- Escaped bytes decode to what was escaped. -/
theorem slipBody_slipEscape (x rest f : List Byte) (used : Nat) :
    slipBody f used (slipEscape x ++ rest) = slipBody (f ++ x) (used + (slipEscape x).length) rest := by
  induction x generalizing f used with
  | nil => rw [List.append_nil]; rfl
  | cons b x ih =>
    have hcons : slipEscape (b :: x) =
        (if b = 0xC0#8 then [0xDB#8, 0xDC#8] else if b = 0xDB#8 then [0xDB#8, 0xDD#8] else [b]) ++ slipEscape x := rfl
    have hgo (n : Nat) : slipBody (f ++ [b]) (used + n) (slipEscape x ++ rest) =
        slipBody (f ++ b :: x) (used + (n + (slipEscape x).length)) rest := by
      rw [ih, List.append_assoc, Nat.add_assoc]
      rfl
    rw [hcons, List.append_assoc, List.length_append]
    by_cases hC0 : b = 0xC0#8
    · subst hC0
      exact (slipBody_of_escaped_C0 f _ used).trans (hgo 2)
    · by_cases hDB : b = 0xDB#8
      · subst hDB
        exact (slipBody_of_escaped_DB f _ used).trans (hgo 2)
      · rw [if_neg hC0, if_neg hDB]
        exact (slipBody_of_plain f _ used hC0 hDB).trans (hgo 1)

/-- Bytes before the first `C0` are skipped. -/
theorem slipScanFrom_skip (rest : List Byte) {g : List Byte} (hg : 0xC0#8 ∉ g) (used : Nat) :
    slipScanFrom used (g ++ rest) = slipScanFrom (used + g.length) rest := by
  induction g generalizing used with
  | nil => rfl
  | cons b g ih =>
    obtain ⟨hb, hg⟩ := List.ne_and_not_mem_of_not_mem_cons hg
    rw [List.cons_append, slipScanFrom, if_neg (Ne.symm hb), ih hg, List.length_cons]
    congr 1
    omega

/-- The scan after the `C0` that opens a frame, and after what is escaped there. -/
theorem slipScan_opened {g : List Byte} (hg : 0xC0#8 ∉ g) (x rest : List Byte) :
    slipScan (g ++ [0xC0#8] ++ slipEscape x ++ rest) = slipBody x (g ++ [0xC0#8] ++ slipEscape x).length rest := by
  rw [slipScan, List.append_assoc, List.append_assoc, slipScanFrom_skip _ hg, List.length_append,
    List.length_append, Nat.zero_add]
  exact slipBody_slipEscape x rest [] (g.length + 1)

theorem slipScan_of_frame {g : List Byte} (hg : 0xC0#8 ∉ g) (f q : List Byte) :
    slipScan (g ++ slipEncode f ++ q) = .frame f (g ++ slipEncode f).length := by
  have h := slipScan_opened hg f ([0xC0#8] ++ q)
  simpa [slipEncode, slipBody_of_end, Nat.add_assoc] using h

theorem slipScan_of_bad_escape {g : List Byte} {b : Byte} (hg : 0xC0#8 ∉ g) (x q : List Byte) (hDC : b ≠ 0xDC#8)
    (hDD : b ≠ 0xDD#8) : slipScan (g ++ [0xC0#8] ++ slipEscape x ++ [0xDB#8, b] ++ q) =
      .error b (g ++ [0xC0#8] ++ slipEscape x ++ [0xDB#8, b]).length := by
  have h := slipScan_opened hg x ([0xDB#8, b] ++ q)
  simpa [slipBody_of_bad_escape, hDC, hDD, Nat.add_assoc] using h

section Receive

variable (s : State) {g f q : List Byte} {wait : State} {fail : State → StatusCode → Word → State}
  {frame : State → List Byte → State}

theorem State.rxDrop_of_append {p : List Byte} (hq : s.rxq = p ++ q) : s.rxDrop p.length = { s with rxq := q } := by
  rw [State.rxDrop, hq, List.drop_left]

theorem State.slipReceive_of_frame (hg : 0xC0#8 ∉ g) (hq : s.rxq = g ++ slipEncode f ++ q) :
    s.slipReceive wait fail frame = frame { s with rxq := q } f := by
  rw [← s.rxDrop_of_append hq]
  simp only [State.slipReceive, hq, slipScan_of_frame hg]

theorem State.slipReceive_of_bad_escape {x : List Byte} {b : Byte} (hg : 0xC0#8 ∉ g) (hDC : b ≠ 0xDC#8) (hDD : b ≠ 0xDD#8)
    (hq : s.rxq = g ++ [0xC0#8] ++ slipEscape x ++ [0xDB#8, b] ++ q) :
    s.slipReceive wait fail frame =
      fail { s with rxq := q } .protocolFraming (BitVec.ofNat 32 (0x10000 + b.toNat)) := by
  have hinfo : framingInfo 1#16 (b.setWidth 16) = BitVec.ofNat 32 (0x10000 + b.toNat) :=
    framingInfo_eq (n := 1) rfl (toNat_setWidth_byte b)
  rw [← s.rxDrop_of_append hq, ← hinfo]
  simp only [State.slipReceive, hq, slipScan_of_bad_escape hg _ _ hDC hDD]

end Receive

/-! ### `esp_response` (R289) -/

/-- A response with the length its data have (R289). -/
def espReply (op : Byte) (v : Word) (d : List Byte) (st kind : Byte) : List Byte :=
  [0x01#8, op] ++ le16 (BitVec.ofNat 16 (d.length + 2)) ++ le32 v ++ d ++ [st, kind]

section Response

variable {op st kind : Byte} {v : Word} {d : List Byte}

theorem espReply_length : (espReply op v d st kind).length = d.length + 10 := by
  simp [espReply, le16, le32]

theorem espReply_drop : (espReply op v d st kind).drop (d.length + 8) = [st, kind] := by
  simp [espReply, le16, le32]

theorem espReply_size : slice (espReply op v d st kind) 2 4 = le16 (BitVec.ofNat 16 (d.length + 2)) := rfl

theorem espReply_value : slice (espReply op v d st kind) 4 8 = le32 v := rfl

theorem espReply_data : slice (espReply op v d st kind) 8 (d.length + 8) = d := by
  show (d ++ [st, kind]).take (d.length + 8 - 8) = d
  rw [Nat.add_sub_cancel, List.take_left]

theorem espReply_status : slice (espReply op v d st kind) (d.length + 8) (d.length + 10) = [st, kind] := by
  rw [slice, espReply_drop, List.take_of_length_le]
  simp

theorem espReply_status_byte : (espReply op v d st kind).getD (d.length + 8) 0#8 = st := by
  have h : ((espReply op v d st kind).drop (d.length + 8)).getD 0 0#8 = st := by
    rw [espReply_drop]
    rfl
  simpa using h

/-- A well-formed response passes the checks of its form, and its status decides. -/
theorem espResponse_espReply (hd : d.length ≤ 65533) : espResponse (espReply op v d st kind) op =
    if st ≠ 0x00#8 then .bad .protocolStatus ((fromLe16 [st, kind]).setWidth 32) else .good v d := by
  have hsize : (fromLe16 (slice (espReply op v d st kind) 2 4)).toNat = d.length + 10 - 8 := by
    rw [espReply_size, fromLe16_le16, BitVec.toNat_ofNat]
    omega
  have hdirection : (espReply op v d st kind).getD 0 0#8 = 0x01#8 := rfl
  have hop : (espReply op v d st kind).getD 1 0#8 = op := rfl
  have hlast : d.length + 10 - 2 = d.length + 8 := by omega
  rw [espResponse, espReply_length, if_neg (by omega), if_neg (not_not.2 hdirection), if_neg (not_not.2 hop),
    if_neg (not_not.2 hsize), hlast, espReply_status_byte, espReply_status, espReply_value, espReply_data, fromLe32_le32]

theorem espResponse_of_status_zero (hd : d.length ≤ 65533) :
    espResponse (espReply op v d 0x00#8 kind) op = .good v d := (espResponse_espReply hd).trans (if_neg (not_not.2 rfl))

theorem espResponse_of_status (hd : d.length ≤ 65533) (hst : st ≠ 0x00#8) :
    espResponse (espReply op v d st kind) op =
      .bad .protocolStatus (BitVec.ofNat 32 (st.toNat + 256 * kind.toNat)) := by
  rw [espResponse_espReply hd, if_pos hst]
  congr 1
  rw [← BitVec.ofNat_toNat, toNat_fromLe16]
  rfl

theorem espResponse_of_malformed {f : List Byte} {len : Nat}
    (hlen : len = (f.getD 2 0#8).toNat + 256 * (f.getD 3 0#8).toNat)
    (hbad : f.length < 10 ∨ f.getD 0 0#8 ≠ 0x01#8 ∨ f.getD 1 0#8 ≠ op ∨ len ≠ f.length - 8) :
    espResponse f op = .bad .protocolFraming (BitVec.ofNat 32 (
      if f.length < 10 then 3 * 2 ^ 16 + f.length
      else if f.getD 0 0#8 ≠ 0x01#8 then 4 * 2 ^ 16 + (f.getD 0 0#8).toNat
      else if f.getD 1 0#8 ≠ op then 5 * 2 ^ 16 + (f.getD 1 0#8).toNat
      else 6 * 2 ^ 16 + len)) := by
  have hfield : (fromLe16 (slice f 2 4)).toNat = len := by
    rw [toNat_fromLe16, hlen]
    simp [slice, List.getD_eq_getElem?_getD, List.getElem?_drop]
  rw [espResponse]
  by_cases hshort : f.length < 10
  case pos =>
    have hlength : (BitVec.ofNat 16 f.length).toNat = f.length := Nat.mod_eq_of_lt (by omega)
    rw [if_pos hshort, if_pos hshort, framingInfo_eq (n := 3) rfl hlength]
  rw [if_neg hshort, if_neg hshort]
  by_cases hdirection : f.getD 0 0#8 ≠ 0x01#8
  case pos => rw [if_pos hdirection, if_pos hdirection, framingInfo_eq (n := 4) rfl (toNat_setWidth_byte _)]
  rw [if_neg hdirection, if_neg hdirection]
  by_cases hop : f.getD 1 0#8 ≠ op
  case pos => rw [if_pos hop, if_pos hop, framingInfo_eq (n := 5) rfl (toNat_setWidth_byte _)]
  rw [if_neg hop, if_neg hop]
  have hsize : (fromLe16 (slice f 2 4)).toNat ≠ f.length - 8 :=
    hfield ▸ ((hbad.resolve_left hshort).resolve_left hdirection).resolve_left hop
  rw [if_pos hsize, framingInfo_eq (n := 6) rfl hfield]

end Response

/-! ### One command written, in `BR.NEG.ESP` and `BR.NEG.WM` (R244, R246) -/

section Command

variable (s : State) (msg : List Byte) {c : Cont}

/-- The head that `BR.NEG.ESP` and `BR.NEG.WM` share: the latch, their one attempt begun, the command, the suspension point. -/
def State.brCommand (s : State) (msg : List Byte) (c : Cont) : State :=
  (s.brLatch.brSetAttempt 1#5).txPut msg State.brWriteFailed fun t => (t.brSetState .cmdSent).suspend c

/-- `s` once that command is written. -/
def State.brCommanded (s : State) (msg : List Byte) : State :=
  { s.wrote with
    tx := s.tx ++ msg
    brTarget := s.x.x2
    brStat := ⟨.cmdSent, 1#5⟩ }

variable {msg}

theorem State.settle_brCommand_of_write_fails (c : Cont) (hne : msg ≠ []) (hw : s.env.writeFails = true) :
    (s.brCommand msg c).settle =
      State.faulted { s.wrote with brTarget := s.x.x2, brStat := ⟨.failed, 1#5⟩ } 0x02#8 0#32 := by
  have hfailed : s.brCommand msg c = (s.brLatch.brSetAttempt 1#5).wrote.brWriteFailed :=
    State.txPut_of_nonempty_fails _ _ _ hne hw
  rw [hfailed]
  exact State.settle_of_idle _ rfl

/-- The command written, and what the operation awaits there already. -/
theorem State.settle_brCommand_of_write_passes (c : Cont) (hne : msg ≠ []) (hw : s.env.writeFails = false) (hu : s.unheld)
    (hready : (s.brCommanded msg).contReady c = true) :
    (s.brCommand msg c).settle = ((s.brCommanded msg).uncont.resume c).settle := by
  have hsent : s.brCommand msg c = (s.brCommanded msg).suspend c := State.txPut_of_nonempty_passes _ _ _ hne hw
  rw [hsent]
  exact State.settle_of_contReady _ c rfl hu ((State.contReady_suspend _ c c).trans hready)

theorem espBaudCommand_ne_nil (new second : Word) : espBaudCommand new second ≠ [] := List.cons_ne_nil _ _

theorem w21Frame_ne_nil (cmd : Word) (q : List Byte) : w21Frame cmd q ≠ [] := List.cons_ne_nil _ _

end Command

/-! ### The two commands, byte by byte (R243, R246) -/

theorem espBaudCommand_eq (new second : Word) : espBaudCommand new second =
    slipEncode ([0x00#8, 0x0F#8, 0x08#8, 0x00#8, 0x00#8, 0x00#8, 0x00#8, 0x00#8] ++ le32 new ++ le32 second) := by
  have hlength : le16 (BitVec.ofNat 16 (le32 new ++ le32 second).length) = [0x08#8, 0x00#8] :=
    show le16 8#16 = _ by decide
  have hcheck : le32 0#32 = [0x00#8, 0x00#8, 0x00#8, 0x00#8] := by decide
  rw [espBaudCommand, espCommand, hlength, hcheck]
  rfl

theorem w21Frame_setRate (v : Word) {body : List Byte} (hbody : body = [0x31#8, 0x00#8, 0x00#8, 0x00#8] ++ le32 v) :
    w21Frame 0x31#32 (le32 v) = [0x21#8, 0x0A#8, 0x00#8] ++ le16 (crc16CcittFalse body) ++ body := by
  have hcmd : w21Body 0x31#32 (le32 v) = body := by
    rw [hbody, w21Body, show le32 0x31#32 = [0x31#8, 0x00#8, 0x00#8, 0x00#8] by decide]
  have hlength : le16 (BitVec.ofNat 16 (body.length + 2)) = [0x0A#8, 0x00#8] := by
    rw [hbody]
    exact show le16 10#16 = _ by decide
  rw [w21Frame, hcmd, hlength]
  rfl

/-! ### The response of `BR.NEG.ESP` taken (R244) -/

section Esp

variable (s : State) {g q f : List Byte}

/-- `s` after `BR.NEG.ESP` has taken the response `f` with the value `v` (R244). -/
def State.espAnswered (s : State) (f : List Byte) (v : Word) : State :=
  State.succeeded { s.rateSet s.x.x2 with
    pbuf := s.pbuf.storeBytes s.x.x3.toNat f
    brStat := { s.brStat with state := .done }
    x := { s.x with x6 := v, x7 := BitVec.ofNat 32 f.length } }

theorem State.espFrame_of_bad {c : StatusCode} {info : Word} (h : espResponse f 0x0F#8 = .bad c info) :
    s.espFrame f = s.brFail c info := by
  rw [State.espFrame, h]

theorem State.espFrame_of_good {v : Word} {d : List Byte} (h : espResponse f 0x0F#8 = .good v d)
    (hfit : fits s.x.x3 f.length) : s.espFrame f = s.espAnswered f v := by
  rw [State.espFrame, h]
  exact s.memWrite_of_fits _ _ _ _ hfit

theorem State.espFrame_of_not_fits {v : Word} {d : List Byte} (h : espResponse f 0x0F#8 = .good v d)
    (hfit : ¬ fits s.x.x3 f.length) : s.espFrame f = s.brFail .bufferRange s.x.x3 := by
  rw [State.espFrame, h]
  exact if_neg fun hin => hfit (of_decide_eq_true hin)

/-- Every response ends the operation. -/
theorem State.espFrame_idle (f : List Byte) : (s.espFrame f).cont = none := by
  unfold State.espFrame
  split
  · rfl
  · exact State.memWrite_elim (P := fun t => t.cont = none) s _ _ _ _ (fun _ => rfl) fun _ => rfl

theorem State.contReady_espResp_of_scan {r : SlipScan} (h : slipScan s.rxq = r) (hr : r ≠ .incomplete) :
    s.contReady .espResp = true := (s.contReady_slip_iff .espResp (by simp)).2 (h ▸ hr)

theorem State.settle_espReady_of_frame (hg : 0xC0#8 ∉ g) (hq : s.rxq = g ++ slipEncode f ++ q) :
    s.espReady.settle = State.espFrame { s with rxq := q } f :=
  (congrArg State.settle (s.slipReceive_of_frame hg hq)).trans (State.settle_of_idle _ (State.espFrame_idle _ f))

/-! ### `BR.NEG.ESP` from its start, and at its wait -/

theorem exec_brNegEsp_of_zero (ho : s.ctrl.opened = true) (hr : s.x.x2 = 0#32) :
    exec .brNegEsp s = .next (s.faulted 0x13#8 2#32) :=
  congrArg Host.Outcome.next
    ((congrArg State.settle (s.inContext_withRate_of_zero _ ho hr)).trans (State.settle_of_idle _ rfl))

theorem exec_brNegEsp_of_nonzero (ho : s.ctrl.opened = true) (hr : s.x.x2 ≠ 0#32) :
    exec .brNegEsp s = .next (s.brCommand (espBaudCommand s.x.x2 s.espSecond) .espResp).settle :=
  congrArg (fun t => Host.Outcome.next (State.settle t)) (s.inContext_withRate_of_nonzero _ ho hr)

theorem exec_brNegEsp_of_write_fails (ho : s.ctrl.opened = true) (hr : s.x.x2 ≠ 0#32) (hw : s.env.writeFails = true) :
    exec .brNegEsp s =
      .next (State.faulted { s.wrote with brTarget := s.x.x2, brStat := ⟨.failed, 1#5⟩ } 0x02#8 0#32) :=
  (exec_brNegEsp_of_nonzero s ho hr).trans
    (congrArg Host.Outcome.next (s.settle_brCommand_of_write_fails _ (espBaudCommand_ne_nil _ _) hw))

/-- The response is queued: it ends the operation. -/
theorem exec_brNegEsp_of_frame (ho : s.ctrl.opened = true) (hr : s.x.x2 ≠ 0#32) (hw : s.env.writeFails = false)
    (hu : s.unheld) (hg : 0xC0#8 ∉ g) (hq : s.rxq = g ++ slipEncode f ++ q) :
    exec .brNegEsp s = .next (State.espFrame
      { s.brCommanded (espBaudCommand s.x.x2 s.espSecond) with cont := none, rxq := q } f) := by
  have hready : (s.brCommanded (espBaudCommand s.x.x2 s.espSecond)).contReady .espResp = true :=
    State.contReady_espResp_of_scan _ ((congrArg slipScan hq).trans (slipScan_of_frame hg f q)) nofun
  rw [exec_brNegEsp_of_nonzero s ho hr, s.settle_brCommand_of_write_passes _ (espBaudCommand_ne_nil _ _) hw hu hready]
  exact congrArg Host.Outcome.next (State.settle_espReady_of_frame _ hg hq)

variable {s} {u : State}

theorem State.step_of_espResp_frame (hc : s.cont = some .espResp) (hu : s.agentMoved u) (hg : 0xC0#8 ∉ g)
    (hq : u.rxq = g ++ slipEncode f ++ q) : step s = .next (State.espFrame { u with cont := none, rxq := q } f) := by
  have hready : u.contReady .espResp = true :=
    u.contReady_espResp_of_scan ((congrArg slipScan hq).trans (slipScan_of_frame hg f q)) nofun
  rw [s.step_of_agentMoved u .espResp hc hu hready]
  exact congrArg Host.Outcome.next (u.uncont.settle_espReady_of_frame hg hq)

theorem State.step_of_espResp_bad_escape {x : List Byte} {b : Byte} (hc : s.cont = some .espResp) (hu : s.agentMoved u)
    (hg : 0xC0#8 ∉ g) (hDC : b ≠ 0xDC#8) (hDD : b ≠ 0xDD#8)
    (hq : u.rxq = g ++ [0xC0#8] ++ slipEscape x ++ [0xDB#8, b] ++ q) :
    step s = .next (State.brFail { u with rxq := q } .protocolFraming (BitVec.ofNat 32 (0x10000 + b.toNat))) := by
  have hready : u.contReady .espResp = true :=
    u.contReady_espResp_of_scan ((congrArg slipScan hq).trans (slipScan_of_bad_escape hg x q hDC hDD)) nofun
  rw [s.step_of_agentMoved u .espResp hc hu hready]
  exact congrArg Host.Outcome.next
    ((congrArg State.settle (u.uncont.slipReceive_of_bad_escape hg hDC hDD hq)).trans (State.settle_raise _ _ _))

theorem State.step_of_espResp_timeout {rest : List Turn} (hc : s.cont = some .espResp) (hscan : slipScan s.rxq = .incomplete)
    (ht : s.turns = .timeout :: rest) : step s = .next ((s.atTurn rest).brFail .timeout 0#32) := by
  have hready : s.contReady .espResp = false := decide_eq_false (not_not.2 hscan)
  exact (s.step_of_timeout_not_contReady .espResp rest hc ht hready).trans
    (congrArg Host.Outcome.next (State.settle_raise _ _ _))

end Esp

/-- Settles O40: the response, queued or completed by the peer, is well-formed and has the status 0. -/
theorem espNegotiates : Obligations.EspNegotiates := by
  refine ⟨decode_encode (i := .brNegEsp) rfl, fun s r g d q v second kind f ho hr hw hu hg hd hf hq hfit hsecond hrate => ?queued,
    fun s u r g d q v kind f hc hu hg hd hf hq hfit hrate => ?awaited⟩
  all_goals have hgood : espResponse f 0x0F#8 = .good v d := hf ▸ espResponse_of_status_zero hd
  case queued =>
    subst hsecond hrate
    refine ⟨_, Memory.holds_storeBytes _ _ _, ?_⟩
    rw [exec_brNegEsp_of_frame s ho hr hw hu hg hq, ← espBaudCommand_eq]
    exact congrArg Host.Outcome.next
      (State.espFrame_of_good { s.brCommanded (espBaudCommand s.x.x2 s.espSecond) with cont := none, rxq := q } hgood hfit)
  case awaited =>
    obtain ⟨_, hx, hpbuf, hstat, _⟩ := State.agentMoved_keeps hu
    subst hrate
    rw [← hx] at hfit
    rw [← hx, ← hpbuf, ← hstat, State.step_of_espResp_frame hc hu hg hq]
    exact ⟨_, Memory.holds_storeBytes _ _ _, congrArg Host.Outcome.next
      (State.espFrame_of_good { u with cont := none, rxq := q } hgood hfit)⟩

/-- Settles O41: the checks and the write, the `Timeout`, then the first check of the response that fails. -/
theorem espFaults : Obligations.EspFaults := by
  refine fun s => ⟨fun ho => exec_of_not_opened s .brNegEsp ho rfl, exec_brNegEsp_of_zero s, exec_brNegEsp_of_write_fails s,
    fun rest => State.step_of_espResp_timeout, fun u g d q f v st kind hc hu hg hd hf hq => ?reply,
    fun u x g q b hc hu hg hDC hDD hq => ?badEscape, fun u g q f len hc hu hg hq hlen hbad => ?malformed⟩
  all_goals obtain ⟨_, hx, _, hstat, _⟩ := State.agentMoved_keeps hu
  case reply =>
    obtain rfl : f = espReply 0x0F#8 v d st kind := hf
    rw [State.step_of_espResp_frame hc hu hg hq, ← hx, ← hstat]
    refine ⟨fun hst => ?status, fun hst hfit => ?range⟩
    case status => exact congrArg Host.Outcome.next (State.espFrame_of_bad _ (espResponse_of_status hd hst))
    case range =>
      subst hst
      exact congrArg Host.Outcome.next
        (State.espFrame_of_not_fits { u with cont := none, rxq := q } (espResponse_of_status_zero hd) hfit)
  case badEscape =>
    rw [← hstat]
    exact State.step_of_espResp_bad_escape hc hu hg hDC hDD hq
  case malformed =>
    rw [State.step_of_espResp_frame hc hu hg hq, ← hstat]
    exact congrArg Host.Outcome.next (State.espFrame_of_bad _ (espResponse_of_malformed hlen hbad))

/-! ### `BR.NEG.WM` (R246) -/

section Wm

variable (s : State)

theorem exec_brNegWm_of_zero (ho : s.ctrl.opened = true) (hr : s.x.x2 = 0#32) :
    exec .brNegWm s = .next (s.faulted 0x13#8 2#32) :=
  congrArg Host.Outcome.next
    ((congrArg State.settle (s.inContext_withRate_of_zero _ ho hr)).trans (State.settle_of_idle _ rfl))

theorem exec_brNegWm_of_nonzero (ho : s.ctrl.opened = true) (hr : s.x.x2 ≠ 0#32) :
    exec .brNegWm s = .next (s.brCommand (w21Frame 0x31#32 (le32 s.x.x2)) .wmSwitch).settle :=
  congrArg (fun t => Host.Outcome.next (State.settle t)) (s.inContext_withRate_of_nonzero _ ho hr)

theorem exec_brNegWm_of_write_fails (ho : s.ctrl.opened = true) (hr : s.x.x2 ≠ 0#32) (hw : s.env.writeFails = true) :
    exec .brNegWm s =
      .next (State.faulted { s.wrote with brTarget := s.x.x2, brStat := ⟨.failed, 1#5⟩ } 0x02#8 0#32) :=
  (exec_brNegWm_of_nonzero s ho hr).trans
    (congrArg Host.Outcome.next (s.settle_brCommand_of_write_fails _ (w21Frame_ne_nil _ _) hw))

/-- The frame written, the delay is over once the block moves (R9). -/
theorem exec_brNegWm_of_write_passes (ho : s.ctrl.opened = true) (hr : s.x.x2 ≠ 0#32) (hw : s.env.writeFails = false)
    (hu : s.unheld) :
    exec .brNegWm s = .next (s.brCommanded (w21Frame 0x31#32 (le32 s.x.x2))).uncont.wmSwitched := by
  rw [exec_brNegWm_of_nonzero s ho hr, s.settle_brCommand_of_write_passes _ (w21Frame_ne_nil _ _) hw hu rfl]
  exact congrArg Host.Outcome.next (State.settle_of_idle _ rfl)

variable {s} {u : State}

theorem State.step_of_wmSwitch (hc : s.cont = some .wmSwitch) (hu : s.agentMoved u) :
    step s = .next u.uncont.wmSwitched :=
  (s.step_of_agentMoved u .wmSwitch hc hu rfl).trans (congrArg Host.Outcome.next (State.settle_of_idle _ rfl))

end Wm

/-- Settles O42: the checks, the write, and the delay, over at once or with the next turn. -/
theorem wmNegotiates : Obligations.WmNegotiates := by
  refine ⟨decode_encode (i := .brNegWm) rfl, fun s r body hbody hrate => ⟨fun ho => exec_of_not_opened s .brNegWm ho rfl,
    exec_brNegWm_of_zero s, exec_brNegWm_of_write_fails s, fun ho hr hw hu => ?sends, fun u hc hu => ?switches⟩⟩
  case sends =>
    subst hrate
    rw [← w21Frame_setRate _ hbody]
    exact exec_brNegWm_of_write_passes s ho hr hw hu
  case switches =>
    obtain ⟨_, hx, _, hstat, _⟩ := State.agentMoved_keeps hu
    rw [← hx, ← hstat]
    exact State.step_of_wmSwitch hc hu

end Sys2Proof.Machine
end

section
/-! SLIP, and `SL.DEC` (O44 to O46). What `slip_escape` makes of one byte is said once (`slipByte_cases`); the length of an encoded
string and the bytes that can stand in it follow by induction. `SL.DEC` ends in the same way from its start and from its wait,
once a frame or a bad escape is there (`State.slDecReady_of_frame_fits` and the two lemmas after it). -/

namespace Sys2Proof.Machine

/-! ### `slip_escape` (R281) -/

/-- What `slip_escape` makes of one byte (R281). -/
def slipByte (b : Byte) : List Byte :=
  if b = 0xC0#8 then [0xDB#8, 0xDC#8] else if b = 0xDB#8 then [0xDB#8, 0xDD#8] else [b]

theorem slipEscape_cons (b : Byte) (x : List Byte) : slipEscape (b :: x) = slipByte b ++ slipEscape x := rfl

theorem slipByte_cases (b : Byte) :
    b = 0xC0#8 ∧ slipByte b = [0xDB#8, 0xDC#8] ∨ b = 0xDB#8 ∧ slipByte b = [0xDB#8, 0xDD#8] ∨
      b ≠ 0xC0#8 ∧ b ≠ 0xDB#8 ∧ slipByte b = [b] := by
  by_cases hC0 : b = 0xC0#8
  case pos => exact .inl ⟨hC0, if_pos hC0⟩
  by_cases hDB : b = 0xDB#8
  case pos => exact .inr (.inl ⟨hDB, (if_neg hC0).trans (if_pos hDB)⟩)
  exact .inr (.inr ⟨hC0, hDB, (if_neg hC0).trans (if_neg hDB)⟩)

theorem slipEscape_length (x : List Byte) :
    (slipEscape x).length = x.length + (x.filter fun b => b == 0xC0#8 || b == 0xDB#8).length := by
  induction x with
  | nil => rfl
  | cons b x ih =>
    rw [slipEscape_cons, List.length_append, ih]
    rcases slipByte_cases b with ⟨rfl, hb⟩ | ⟨rfl, hb⟩ | ⟨hC0, hDB, hb⟩
    case inr.inr =>
      simp [hb, hC0, hDB]
      omega
    all_goals
      simp [hb]
      omega

theorem slipEncode_length (x : List Byte) :
    (slipEncode x).length = x.length + 2 + (x.filter fun b => b == 0xC0#8 || b == 0xDB#8).length := by
  have hescape := slipEscape_length x
  simp only [slipEncode, List.length_append, List.length_singleton]
  omega

theorem C0_not_mem_slipEscape (x : List Byte) : 0xC0#8 ∉ slipEscape x := by
  induction x with
  | nil => exact List.not_mem_nil
  | cons b x ih =>
    have hb : 0xC0#8 ∉ slipByte b := by
      rcases slipByte_cases b with ⟨_, hb⟩ | ⟨_, hb⟩ | ⟨hC0, _, hb⟩
      case inr.inr => exact hb ▸ mt List.mem_singleton.1 hC0.symm
      all_goals exact hb ▸ by decide
    exact List.not_mem_append hb ih

/-- A `DB` in what begins with an escape is the one that begins it, or stands after the escape. -/
theorem head?_after_DB_of_escape {e : Byte} (he : e ≠ 0xDB#8) {a b r : List Byte}
    (h : 0xDB#8 :: e :: r = a ++ 0xDB#8 :: b) : b.head? = some e ∨ ∃ a', r = a' ++ 0xDB#8 :: b := by
  match a, h with
  | [], h => exact .inl (by rw [← (List.cons.inj h).2]; rfl)
  | [_], h => exact absurd (List.cons.inj (List.cons.inj h).2).1 he
  | _ :: _ :: a', h => exact .inr ⟨a', (List.cons.inj (List.cons.inj h).2).2⟩

theorem head?_after_DB_of_slipEscape {x a b : List Byte} (h : slipEscape x = a ++ 0xDB#8 :: b) :
    b.head? = some 0xDC#8 ∨ b.head? = some 0xDD#8 := by
  induction x generalizing a with
  | nil => exact absurd h.symm (List.append_ne_nil_of_right_ne_nil a (List.cons_ne_nil _ _))
  | cons c x ih =>
    rw [slipEscape_cons] at h
    rcases slipByte_cases c with ⟨_, hc⟩ | ⟨_, hc⟩ | ⟨_, hDB, hc⟩
    all_goals rw [hc] at h
    · rcases head?_after_DB_of_escape (by decide) h with hb | ⟨a', ha⟩
      · exact .inl hb
      · exact ih ha
    · rcases head?_after_DB_of_escape (by decide) h with hb | ⟨a', ha⟩
      · exact .inr hb
      · exact ih ha
    · match a, h with
      | [], h => exact absurd (List.cons.inj h).1 hDB
      | _ :: a', h => exact ih (List.cons.inj h).2

/-- Settles O44: the cases of one byte, and the length by induction (`slipEncode_length`). -/
theorem slipEncodeShape : Obligations.SlipEncodeShape :=
  ⟨rfl, fun _ _ => rfl, fun _ => rfl, slipEncode_length⟩

/-- Settles O45: the scan skips, opens, decodes and closes (`slipScan_of_frame`). -/
theorem slipRoundTrip : Obligations.SlipRoundTrip := by
  refine ⟨fun x g r hg => ?scan, C0_not_mem_slipEscape, fun x a b => head?_after_DB_of_slipEscape⟩
  case scan => rw [slipScan_of_frame hg, List.length_append]

/-! ### `SL.DEC` (R284) -/

section SlDec

variable (s : State) {g f q x : List Byte} {b : Byte}

theorem State.memWrite_of_not_fits (addr : Word) (bs : List Byte) (fail ok : State → State) (h : ¬ fits addr bs.length) :
    s.memWrite addr bs fail ok = fail s := if_neg fun hin => h (of_decide_eq_true hin)

/-- `s` after `SL.DEC` has stored the frame `f` (R284). -/
def State.slDecoded (s : State) (f : List Byte) : State :=
  State.succeeded { s with
    pbuf := s.pbuf.storeBytes s.x.x3.toNat f
    x := { s.x with x6 := BitVec.ofNat 32 f.length } }

theorem State.slDecReady_of_frame_fits (hg : 0xC0#8 ∉ g) (hq : s.rxq = g ++ slipEncode f ++ q)
    (hfit : fits s.x.x3 f.length) : s.slDecReady = State.slDecoded { s with rxq := q } f :=
  (s.slipReceive_of_frame hg hq).trans (State.memWrite_of_fits { s with rxq := q } _ _ _ _ hfit)

theorem State.slDecReady_of_frame_not_fits (hg : 0xC0#8 ∉ g) (hq : s.rxq = g ++ slipEncode f ++ q)
    (hfit : ¬ fits s.x.x3 f.length) : s.slDecReady = State.faulted { s with rxq := q } 0x11#8 s.x.x3 :=
  (s.slipReceive_of_frame hg hq).trans (State.memWrite_of_not_fits { s with rxq := q } _ _ _ _ hfit)

theorem State.slDecReady_of_bad_escape (hg : 0xC0#8 ∉ g) (hDC : b ≠ 0xDC#8) (hDD : b ≠ 0xDD#8)
    (hq : s.rxq = g ++ [0xC0#8] ++ slipEscape x ++ [0xDB#8, b] ++ q) :
    s.slDecReady = State.faulted { s with rxq := q } 0x04#8 (BitVec.ofNat 32 (0x10000 + b.toNat)) :=
  s.slipReceive_of_bad_escape hg hDC hDD hq

/-- A frame or a bad escape ends the operation. -/
theorem State.slDecReady_idle (hscan : slipScan s.rxq ≠ .incomplete) : s.slDecReady.cont = none :=
  State.slipReceive_elim (P := fun t => t.cont = none) s _ _ _ (fun h => absurd h hscan)
    (fun _ _ _ => State.memWrite_elim (P := fun t => t.cont = none) _ _ _ _ _ (fun _ => rfl) fun _ => rfl)
    fun _ _ _ => rfl

theorem exec_slDec_of_complete (ho : s.ctrl.opened = true) (hscan : slipScan s.rxq ≠ .incomplete) :
    exec .slDec s = .next s.slDecReady :=
  congrArg Host.Outcome.next ((s.inContext_of_opened _ ho).trans (if_pos (decide_eq_true hscan)))

theorem exec_slDec_of_incomplete (ho : s.ctrl.opened = true) (hscan : slipScan s.rxq = .incomplete) :
    exec .slDec s = .next (s.waiting .slDec) := by
  have hnone : ¬ decide (slipScan s.rxq ≠ .incomplete) = true := decide_eq_true_iff.not.2 (not_not.2 hscan)
  exact congrArg Host.Outcome.next ((s.inContext_of_opened _ ho).trans (if_neg hnone))

variable {s} {u : State}

/-- `Timeout` at a wait that is not met and whose `Timeout` is a fault (R338). -/
theorem State.step_of_wait_timeout {c : Cont} {code : StatusCode} {info : Word} {rest : List Turn} (hc : s.cont = some c)
    (ht : s.turns = .timeout :: rest) (hr : s.contReady c = false) (he : ∀ t : State, t.expire c = t.raise code info) :
    step s = .next (State.faulted { s with turns := rest } code.code info) := by
  rw [s.step_of_timeout_not_contReady c rest hc ht hr, he]
  exact congrArg Host.Outcome.next (State.settle_raise _ code info)

theorem State.step_of_slDec_complete (hc : s.cont = some .slDec) (hu : s.agentMoved u)
    (hscan : slipScan u.rxq ≠ .incomplete) : step s = .next u.uncont.slDecReady :=
  (s.step_of_agentMoved u .slDec hc hu ((u.contReady_slip_iff .slDec (by simp)).2 hscan)).trans
    (congrArg Host.Outcome.next (State.settle_of_idle _ (u.uncont.slDecReady_idle hscan)))

theorem State.step_of_slDec_frame_fits (hc : s.cont = some .slDec) (hu : s.agentMoved u) (hg : 0xC0#8 ∉ g)
    (hq : u.rxq = g ++ slipEncode f ++ q) (hfit : fits u.x.x3 f.length) :
    step s = .next (State.slDecoded { u with rxq := q } f) := by
  have hscan : slipScan u.rxq ≠ .incomplete := by rw [hq, slipScan_of_frame hg]; nofun
  have htaken : State.slDecoded { u.uncont with rxq := q } f = State.slDecoded { u with rxq := q } f := rfl
  rw [State.step_of_slDec_complete hc hu hscan, u.uncont.slDecReady_of_frame_fits hg hq hfit, htaken]

theorem State.step_of_slDec_frame_not_fits (hc : s.cont = some .slDec) (hu : s.agentMoved u) (hg : 0xC0#8 ∉ g)
    (hq : u.rxq = g ++ slipEncode f ++ q) (hfit : ¬ fits u.x.x3 f.length) :
    step s = .next (State.faulted { u with rxq := q } 0x11#8 u.x.x3) := by
  have hscan : slipScan u.rxq ≠ .incomplete := by rw [hq, slipScan_of_frame hg]; nofun
  rw [State.step_of_slDec_complete hc hu hscan, u.uncont.slDecReady_of_frame_not_fits hg hq hfit]
  rfl

theorem State.step_of_slDec_timeout {rest : List Turn} (hc : s.cont = some .slDec) (hscan : slipScan s.rxq = .incomplete)
    (ht : s.turns = .timeout :: rest) : step s = .next (State.faulted { s with turns := rest } 0x0E#8 0#32) :=
  State.step_of_wait_timeout hc ht (decide_eq_false (not_not.2 hscan)) fun _ => rfl

end SlDec

/-- Settles O46: a frame or a bad escape, queued or completed at the wait, then `State.slDecReady`; else the wait and its
`Timeout`. -/
theorem slDecReceives : Obligations.SlDecReceives := by
  refine ⟨decode_encode (i := .slDec) rfl, fun s => ⟨fun ho => exec_of_not_opened s .slDec ho rfl, fun x g q ho hg hq => ?frame,
    fun x g q b ho hg hDC hDD hq => ?badEscape, exec_slDec_of_incomplete s, fun rest => State.step_of_slDec_timeout,
    fun u x g q hc hu hg hq => ?awaitedFrame, fun u x g q b hc hu hg hDC hDD hq => ?awaitedBadEscape⟩⟩
  case frame =>
    have hscan : slipScan s.rxq ≠ .incomplete := by rw [hq, slipScan_of_frame hg]; nofun
    rw [exec_slDec_of_complete s ho hscan]
    exact ⟨fun hfit => ⟨_, Memory.holds_storeBytes _ _ _, congrArg _ (s.slDecReady_of_frame_fits hg hq hfit)⟩,
      fun hfit => congrArg _ (s.slDecReady_of_frame_not_fits hg hq hfit)⟩
  case badEscape =>
    have hscan : slipScan s.rxq ≠ .incomplete := by rw [hq, slipScan_of_bad_escape hg _ _ hDC hDD]; nofun
    rw [exec_slDec_of_complete s ho hscan]
    exact congrArg _ (s.slDecReady_of_bad_escape hg hDC hDD hq)
  case awaitedFrame =>
    obtain ⟨_, hx, hpbuf, _, _⟩ := State.agentMoved_keeps hu
    rw [← hx, ← hpbuf]
    exact ⟨fun hfit => ⟨_, Memory.holds_storeBytes _ _ _, State.step_of_slDec_frame_fits hc hu hg hq hfit⟩,
      State.step_of_slDec_frame_not_fits hc hu hg hq⟩
  case awaitedBadEscape =>
    have hscan : slipScan u.rxq ≠ .incomplete := by rw [hq, slipScan_of_bad_escape hg _ _ hDC hDD]; nofun
    rw [State.step_of_slDec_complete hc hu hscan]
    exact congrArg _ (u.uncont.slDecReady_of_bad_escape hg hDC hDD hq)

end Sys2Proof.Machine
end

section
/-! The four operations that build one frame and transmit it, and the ESP checksum (O43, O50). The checks and the write are the
same in all four (`transmits_of_read`); what differs is the bytes of the frame. -/

namespace Sys2Proof.Machine

/-! ### One frame, with the checks in their order (R273, R283, R288, R297) -/

section Checks

variable (s : State) {limit : Nat}

theorem State.withLength_of_le (go : State → State) (h : s.x.x1.toNat ≤ limit) : s.withLength limit go = go s :=
  if_neg h.not_gt

theorem State.withLength_of_lt (go : State → State) (h : limit < s.x.x1.toNat) :
    s.withLength limit go = s.raise .illegalOperand 1#32 := if_pos h

end Checks

/-- An operation that, a context being open, reads its range, checks the length and puts one frame. -/
theorem transmits_of_read {i : Instr} {limit : Nat} {frame : State → List Byte → List Byte} (hi : needsContext i = true)
    (hne : ∀ s m, frame s m ≠ [])
    (hread : ∀ s : State, s.ctrl.opened = true →
      exec i s = .next (s.withInput fun m => s.withLength limit fun t => t.txFinal (frame t m))) :
    Transmits i limit frame := by
  refine fun s => ⟨fun ho => exec_of_not_opened s i ho hi, fun ho hfit => ?range, fun ho hfit hlong => ?length,
    fun m ho hfit hle hm => ?write⟩
  all_goals rw [hread s ho]
  case range => exact congrArg Host.Outcome.next (s.withInput_of_not_fits _ hfit)
  case length => exact congrArg Host.Outcome.next ((s.withInput_of_fits _ hfit).trans (s.withLength_of_lt _ hlong))
  case write =>
    rw [s.withInput_of_shows _ hfit hm, s.withLength_of_le _ hle]
    exact ⟨fun hw => congrArg _ (s.txFinal_of_write_fails (hne s m) hw),
      fun hw => congrArg _ (s.txFinal_of_write_passes (hne s m) hw)⟩

theorem slipEncode_ne_nil (x : List Byte) : slipEncode x ≠ [] := List.cons_ne_nil _ _

theorem transmits_lpEnc (op : Byte) : Transmits (.lpEnc op) 65535 fun _ m => lpFrame op m :=
  transmits_of_read rfl (fun _ _ => List.cons_ne_nil _ _) fun s ho => congrArg Host.Outcome.next (s.inContext_of_opened _ ho)

theorem transmits_slCmd (op : Byte) : Transmits (.slCmd op) 65535 fun s m => slipEncode (espCommand op m s.x.x2) :=
  transmits_of_read rfl (fun _ _ => slipEncode_ne_nil _) fun s ho => congrArg Host.Outcome.next (s.inContext_of_opened _ ho)

theorem transmits_w21Enc : Transmits .w21Enc 65529 fun s m => w21Frame s.x.x2 m :=
  transmits_of_read rfl (fun _ _ => w21Frame_ne_nil _ _) fun s ho => congrArg Host.Outcome.next (s.inContext_of_opened _ ho)

/-- `SL.ENC` has no length check, and none is missing: a range in `PBUF` is no longer than `PBUF`. -/
theorem transmits_slEnc : Transmits .slEnc (2 ^ 24) fun _ m => slipEncode m := by
  refine transmits_of_read rfl (fun _ _ => slipEncode_ne_nil _) fun s ho => congrArg Host.Outcome.next ?_
  rw [s.inContext_of_opened _ ho]
  by_cases hfit : fits s.x.x0 s.x.x1.toNat
  · have hle : s.x.x1.toNat ≤ 2 ^ 24 := (Nat.le_add_left _ _).trans hfit
    rw [s.withInput_of_fits _ hfit, s.withInput_of_fits _ hfit, s.withLength_of_le _ hle]
  · rw [s.withInput_of_not_fits _ hfit, s.withInput_of_not_fits _ hfit]

/-! ### The frames, byte by byte (R271, R272, R286, R295) -/

theorem le16_ofNat (n : Nat) : le16 (BitVec.ofNat 16 n) = [BitVec.ofNat 8 (n % 256), BitVec.ofNat 8 (n / 256)] := by
  have hlow : (BitVec.ofNat 16 n).extractLsb' 0 8 = BitVec.ofNat 8 (n % 256) := by
    apply BitVec.eq_of_toNat_eq
    simp only [BitVec.extractLsb'_toNat, BitVec.toNat_ofNat, Nat.shiftRight_zero]
    omega
  have hhigh : (BitVec.ofNat 16 n).extractLsb' 8 8 = BitVec.ofNat 8 (n / 256) := by
    apply BitVec.eq_of_toNat_eq
    simp only [BitVec.extractLsb'_toNat, BitVec.toNat_ofNat, Nat.shiftRight_eq_div_pow]
    omega
  rw [le16, hlow, hhigh]

theorem lpChecksum_eq (m : List Byte) :
    lpChecksum m = BitVec.ofNat 8 ((m.length % 256 + m.length / 256 + (m.map BitVec.toNat).sum) % 256) := by
  rw [lpChecksum, le16_ofNat, sum8_eq, sum8_eq]
  apply BitVec.eq_of_toNat_eq
  simp only [List.map_cons, List.map_nil, List.sum_cons, List.sum_nil, BitVec.toNat_add, BitVec.toNat_ofNat]
  omega

theorem lpFrame_eq (op : Byte) (m : List Byte) : lpFrame op m =
    [op, BitVec.ofNat 8 ((m.length % 256 + m.length / 256 + (m.map BitVec.toNat).sum) % 256),
      BitVec.ofNat 8 (m.length % 256), BitVec.ofNat 8 (m.length / 256)] ++ m := by
  rw [lpFrame, lpChecksum_eq, le16_ofNat]
  rfl

theorem espCommand_eq (op : Byte) (m : List Byte) (chk : Word) : espCommand op m chk =
    [0x00#8, op, BitVec.ofNat 8 (m.length % 256), BitVec.ofNat 8 (m.length / 256)] ++ le32 chk ++ m := by
  rw [espCommand, le16_ofNat]
  rfl

theorem w21Body_length (cmd : Word) (m : List Byte) : (w21Body cmd m).length = m.length + 4 :=
  List.length_append.trans (Nat.add_comm 4 m.length)

theorem w21Frame_eq (cmd : Word) (m : List Byte) : w21Frame cmd m =
    [0x21#8, BitVec.ofNat 8 ((m.length + 6) % 256), BitVec.ofNat 8 ((m.length + 6) / 256),
      (crc16 0xFFFF#16 (le32 cmd ++ m)).extractLsb' 0 8, (crc16 0xFFFF#16 (le32 cmd ++ m)).extractLsb' 8 8]
      ++ le32 cmd ++ m := by
  rw [w21Frame, w21Body_length, le16_ofNat]
  rfl

/-- Settles O43: the checks and the write of each operation, and each frame written out. -/
theorem frameOpsTransmit : Obligations.FrameOpsTransmit := by
  unfold Obligations.FrameOpsTransmit
  simp only [← lpFrame_eq, ← espCommand_eq, ← w21Frame_eq]
  exact ⟨fun op => decode_encode (i := .lpEnc op) rfl, decode_encode (i := .slEnc) rfl,
    fun op => decode_encode (i := .slCmd op) rfl, decode_encode (i := .w21Enc) rfl, transmits_lpEnc, transmits_slEnc,
    transmits_slCmd, transmits_w21Enc⟩

/-! ### The ESP checksum (R287) -/

/-- The seed of an exclusive or over bytes stands outside of it. -/
theorem foldl_xor_eq (c : Byte) (m : List Byte) : m.foldl (· ^^^ ·) c = c ^^^ m.foldl (· ^^^ ·) 0x00#8 := by
  induction m generalizing c with
  | nil => exact BitVec.xor_zero.symm
  | cons b m ih => rw [List.foldl_cons, List.foldl_cons, ih, ih (0x00#8 ^^^ b), BitVec.zero_xor, BitVec.xor_assoc]

theorem espXsum_append (a b : List Byte) : espXsum (a ++ b) = espXsum a ^^^ espXsum b ^^^ 0xEF#8 := by
  have hseed : espXsum b ^^^ 0xEF#8 = b.foldl (· ^^^ ·) 0x00#8 := by
    rw [espXsum, foldl_xor_eq, BitVec.xor_comm, ← BitVec.xor_assoc, BitVec.xor_self, BitVec.zero_xor]
  rw [BitVec.xor_assoc, hseed, ← foldl_xor_eq]
  exact List.foldl_append

/-- Settles O50: the range is the only check; one byte more is one step of the fold. -/
theorem slXsumChecksum : Obligations.SlXsumChecksum :=
  ⟨decode_encode (i := .slXsum) rfl,
    fun s => ⟨fun hfit => congrArg Host.Outcome.next (s.withInput_of_not_fits _ hfit),
      fun _ hfit hm => congrArg Host.Outcome.next (s.withInput_of_shows _ hfit hm)⟩,
    rfl, fun _ _ => List.foldl_append, espXsum_append⟩

end Sys2Proof.Machine
end

section
/-! `LP.DEC` (O47, O48). From its start, with polls queued, and from each of its waits, the operation comes to
`(t.suspend c).settle`: the wait `c` reached, with what it awaits in `RXQ` (`exec_lpDec_after_polls`, `State.step_of_wait_met`).
What it does there is said once for each answer. -/

namespace Sys2Proof.Machine

section LpDec

variable (s : State) {d : Bool} {k : Nat} {q : List Byte}

/-- A wait reached, what it awaits being there already. -/
theorem State.settle_suspend_of_contReady {c : Cont} (hu : s.unheld) (hr : s.contReady c = true) :
    (s.suspend c).settle = (s.uncont.resume c).settle :=
  (s.suspend c).settle_of_contReady c rfl hu ((s.contReady_suspend c c).trans hr)

/-! ### The first two bytes of a response (R275, R276, R278) -/

theorem State.settle_suspend_lpPrefix {a b : Byte} (hu : s.unheld) (hq : s.rxq = a :: b :: q) :
    (s.suspend (.lpPrefix d k)).settle = (State.lpPrefixBytes { s with rxq := q, cont := none } d k [a, b]).settle := by
  have hready : s.contReady (.lpPrefix d k) = true := (s.contReady_lpPrefix_iff d k).2 (hq ▸ Nat.le_add_left 2 q.length)
  have hdrop : s.uncont.rxDrop 2 = { s with rxq := q, cont := none } := State.rxDrop_of_append (p := [a, b]) s.uncont hq
  have htake : s.uncont.rxq.take 2 = [a, b] := congrArg (List.take 2) hq
  rw [s.settle_suspend_of_contReady hu hready, ← hdrop, ← htake]
  rfl

theorem State.settle_lpPrefix_ok (hu : s.unheld) (hq : s.rxq = 0x4F#8 :: 0x4B#8 :: q) :
    (s.suspend (.lpPrefix false k)).settle = State.succeeded { s with
      rxq := q
      x := { s.x with x6 := 0#32, x7 := BitVec.ofNat 32 k } } :=
  (s.settle_suspend_lpPrefix hu hq).trans (State.settle_of_idle _ rfl)

theorem State.settle_lpPrefix_ok_data (hu : s.unheld) (hq : s.rxq = 0x4F#8 :: 0x4B#8 :: q) :
    (s.suspend (.lpPrefix true k)).settle = (State.suspend { s with rxq := q } (.lpLen k)).settle :=
  s.settle_suspend_lpPrefix hu hq

theorem State.settle_lpPrefix_fl (hu : s.unheld) (hq : s.rxq = 0x46#8 :: 0x4C#8 :: q) :
    (s.suspend (.lpPrefix d k)).settle = State.faulted { s with rxq := q } 0x05#8 0x4C46#32 :=
  (s.settle_suspend_lpPrefix hu hq).trans (State.settle_raise _ _ _)

theorem State.settle_lpPrefix_unknown {a b : Byte} (hu : s.unheld) (hq : s.rxq = a :: b :: q) (hok : [a, b] ≠ [0x4F#8, 0x4B#8])
    (hfl : [a, b] ≠ [0x46#8, 0x4C#8]) (hpd : [a, b] ≠ [0x50#8, 0x44#8]) :
    (s.suspend (.lpPrefix d k)).settle =
      State.faulted { s with rxq := q } 0x04#8 (BitVec.ofNat 32 (2 * 2 ^ 16 + a.toNat + 256 * b.toNat)) := by
  have hinfo : framingInfo 2#16 (fromLe16 [a, b]) = BitVec.ofNat 32 (2 * 2 ^ 16 + a.toNat + 256 * b.toNat) := by
    rw [Nat.add_assoc]
    exact framingInfo_eq rfl (toNat_fromLe16 [a, b])
  have hbad : State.lpPrefixBytes { s with rxq := q, cont := none } d k [a, b] =
      State.raise { s with rxq := q, cont := none } .protocolFraming (framingInfo 2#16 (fromLe16 [a, b])) :=
    (if_neg hok).trans ((if_neg hfl).trans (if_neg hpd))
  rw [s.settle_suspend_lpPrefix hu hq, hbad, hinfo]
  exact State.settle_raise _ _ _

theorem State.settle_lpPrefix_last_pd (hu : s.unheld) (hq : s.rxq = 0x50#8 :: 0x44#8 :: q) :
    (s.suspend (.lpPrefix d 500)).settle = State.faulted { s with rxq := q } 0x0F#8 500#32 :=
  (s.settle_suspend_lpPrefix hu hq).trans (State.settle_raise _ _ _)

/-- A `"PD"` below the limit: the delay, over at once, and the wait for the next two bytes. -/
theorem State.settle_lpPrefix_pd (hu : s.unheld) (hq : s.rxq = 0x50#8 :: 0x44#8 :: q) (hk : k < 500) :
    (s.suspend (.lpPrefix d k)).settle = (State.suspend { s with rxq := q } (.lpPrefix d (k + 1))).settle := by
  have hpoll : State.lpPrefixBytes { s with rxq := q, cont := none } d k [0x50#8, 0x44#8] =
      State.suspend { s with rxq := q } (.lpPoll d (k + 1)) := if_neg (c := k = Config.lpPdPolls) hk.ne
  rw [s.settle_suspend_lpPrefix hu hq, hpoll]
  exact State.settle_of_contReady _ (.lpPoll d (k + 1)) rfl hu rfl

theorem State.settle_lpPrefix_polls (n : Nat) (hu : s.unheld) (hq : s.rxq = (List.replicate n [0x50#8, 0x44#8]).flatten ++ q)
    (hn : k + n ≤ 500) :
    (s.suspend (.lpPrefix d k)).settle = (State.suspend { s with rxq := q } (.lpPrefix d (k + n))).settle := by
  induction n generalizing s k with
  | zero =>
    obtain rfl : s.rxq = q := hq
    rfl
  | succ n ih =>
    have hk : k < 500 := by omega
    have hnext : k + 1 + n = k + (n + 1) := by omega
    rw [s.settle_lpPrefix_pd hu hq hk, ← hnext]
    exact ih _ hu rfl (hnext.trans_le hn)

/-! ### The two length bytes (R275, R277) -/

section Length

variable {lo hi : Byte}

theorem State.settle_suspend_lpLen (hu : s.unheld) (hq : s.rxq = lo :: hi :: q) :
    (s.suspend (.lpLen k)).settle =
      (State.withRange { s with rxq := q, cont := none } s.x.x3 (lo.toNat + 256 * hi.toNat) fun t =>
        t.suspendUnless (lo.toNat + 256 * hi.toNat = 0) (.lpData k (lo.toNat + 256 * hi.toNat)) fun t =>
          t.lpDataReady k 0).settle := by
  have hready : s.contReady (.lpLen k) = true := (s.contReady_lpLen_iff k).2 (hq ▸ Nat.le_add_left 2 q.length)
  have hdrop : s.uncont.rxDrop 2 = { s with rxq := q, cont := none } := State.rxDrop_of_append (p := [lo, hi]) s.uncont hq
  have hlength : (fromLe16 (s.uncont.rxq.take 2)).toNat = lo.toNat + 256 * hi.toNat := by
    rw [show s.uncont.rxq.take 2 = [lo, hi] from congrArg (List.take 2) hq]
    exact toNat_fromLe16 [lo, hi]
  rw [s.settle_suspend_of_contReady hu hready, ← hdrop, ← hlength]
  rfl

theorem State.settle_lpLen_not_fits (hu : s.unheld) (hq : s.rxq = lo :: hi :: q)
    (hfit : ¬ fits s.x.x3 (lo.toNat + 256 * hi.toNat)) :
    (s.suspend (.lpLen k)).settle = State.faulted { s with rxq := q } 0x11#8 s.x.x3 := by
  rw [s.settle_suspend_lpLen hu hq, State.withRange_of_not_fits _ _ _ _ hfit]
  exact State.settle_raise _ _ _

/-- `s` after `LP.DEC` has taken `n` data bytes, after `k` polls (R275). -/
def State.lpReceived (s : State) (k n : Nat) : State :=
  State.succeeded { s with
    pbuf := s.pbuf.storeBytes s.x.x3.toNat (s.rxq.take n)
    rxq := s.rxq.drop n
    x := { s.x with x6 := BitVec.ofNat 32 n, x7 := BitVec.ofNat 32 k } }

theorem State.lpReceived_of_append {m : List Byte} (hq : s.rxq = m ++ q) : s.lpReceived k m.length =
    State.succeeded { s with
      pbuf := s.pbuf.storeBytes s.x.x3.toNat m
      rxq := q
      x := { s.x with x6 := BitVec.ofNat 32 m.length, x7 := BitVec.ofNat 32 k } } := by
  rw [State.lpReceived, hq, List.take_left, List.drop_left]

/-- The range is checked again when the bytes are stored, and a range that fits passes. -/
theorem State.lpDataReady_eq {n : Nat} (hfit : fits s.x.x3 n) (hlen : n ≤ s.rxq.length) :
    s.lpDataReady k n = s.lpReceived k n := by
  have htaken : (s.rxq.take n).length = n := List.length_take_of_le hlen
  exact State.memWrite_of_fits _ _ _ _ _ (htaken.symm ▸ hfit)

theorem State.settle_lpLen_zero (hu : s.unheld) (hq : s.rxq = lo :: hi :: q) (hzero : lo.toNat + 256 * hi.toNat = 0)
    (hfit : fits s.x.x3 0) : (s.suspend (.lpLen k)).settle = State.lpReceived { s with rxq := q } k 0 := by
  rw [s.settle_suspend_lpLen hu hq, hzero, State.withRange_of_fits _ _ _ _ hfit]
  exact (congrArg State.settle (State.lpDataReady_eq { s with rxq := q, cont := none } hfit (Nat.zero_le _))).trans
    (State.settle_of_idle _ rfl)

theorem State.settle_lpLen_positive (hu : s.unheld) (hq : s.rxq = lo :: hi :: q) (hpos : lo.toNat + 256 * hi.toNat ≠ 0)
    (hfit : fits s.x.x3 (lo.toNat + 256 * hi.toNat)) :
    (s.suspend (.lpLen k)).settle =
      (State.suspend { s with rxq := q } (.lpData k (lo.toNat + 256 * hi.toNat))).settle := by
  rw [s.settle_suspend_lpLen hu hq, State.withRange_of_fits _ _ _ _ hfit, State.suspendUnless,
    if_neg (decide_eq_true_iff.not.2 hpos)]
  rfl

/-! ### The data bytes (R275) -/

theorem State.settle_lpData {n : Nat} (hu : s.unheld) (hlen : n ≤ s.rxq.length) (hfit : fits s.x.x3 n) :
    (s.suspend (.lpData k n)).settle = s.lpReceived k n := by
  rw [s.settle_suspend_of_contReady hu ((s.contReady_lpData_iff k n).2 hlen)]
  exact (congrArg State.settle (s.uncont.lpDataReady_eq hfit hlen)).trans (State.settle_of_idle _ rfl)

/-- The length and all the bytes it announces are queued. -/
theorem State.settle_lpLen_queued (hu : s.unheld) (hq : s.rxq = lo :: hi :: q) (hlen : lo.toNat + 256 * hi.toNat ≤ q.length)
    (hfit : fits s.x.x3 (lo.toNat + 256 * hi.toNat)) :
    (s.suspend (.lpLen k)).settle = State.lpReceived { s with rxq := q } k (lo.toNat + 256 * hi.toNat) := by
  by_cases hzero : lo.toNat + 256 * hi.toNat = 0
  case pos =>
    rw [hzero] at hfit ⊢
    exact s.settle_lpLen_zero hu hq hzero hfit
  case neg => exact (s.settle_lpLen_positive hu hq hzero hfit).trans (State.settle_lpData { s with rxq := q } hu hlen hfit)

end Length

/-! ### How the operation comes to a wait -/

theorem exec_lpDec_after_polls (imm : Byte) (ho : s.ctrl.opened = true) (hu : s.unheld) (hk : k ≤ 500)
    (hq : s.rxq = (List.replicate k [0x50#8, 0x44#8]).flatten ++ q) :
    exec (.lpDec imm) s = .next (State.suspend { s with rxq := q } (.lpPrefix (imm.getLsbD 0) k)).settle := by
  have hstart : s.lpDecStart (imm.getLsbD 0) = s.suspend (.lpPrefix (imm.getLsbD 0) 0) := s.inContext_of_opened _ ho
  have hpolls := s.settle_lpPrefix_polls (d := imm.getLsbD 0) (k := 0) k hu hq (by omega)
  rw [Nat.zero_add] at hpolls
  exact congrArg Host.Outcome.next ((congrArg State.settle hstart).trans hpolls)

/-- `"OK"` and a length come after the polls. -/
theorem exec_lpDec_data_after_polls (ho : s.ctrl.opened = true) (hu : s.unheld) (hk : k ≤ 500)
    (hq : s.rxq = (List.replicate k [0x50#8, 0x44#8]).flatten ++ 0x4F#8 :: 0x4B#8 :: q) :
    exec (.lpDec 1#8) s = .next (State.suspend { s with rxq := q } (.lpLen k)).settle :=
  (exec_lpDec_after_polls s 1#8 ho hu hk hq).trans
    (congrArg Host.Outcome.next (State.settle_lpPrefix_ok_data { s with rxq := 0x4F#8 :: 0x4B#8 :: q } hu rfl))

/-- The whole of a response with data is queued. -/
theorem exec_lpDec_of_data {lo hi : Byte} {n : Nat} (ho : s.ctrl.opened = true) (hu : s.unheld) (hk : k ≤ 500)
    (hq : s.rxq = (List.replicate k [0x50#8, 0x44#8]).flatten ++ 0x4F#8 :: 0x4B#8 :: lo :: hi :: q)
    (hn : lo.toNat + 256 * hi.toNat = n) (hlen : n ≤ q.length) (hfit : fits s.x.x3 n) :
    exec (.lpDec 1#8) s = .next (State.lpReceived { s with rxq := q } k n) := by
  subst hn
  exact (exec_lpDec_data_after_polls s ho hu hk hq).trans
    (congrArg Host.Outcome.next (State.settle_lpLen_queued { s with rxq := lo :: hi :: q } hu rfl hlen hfit))

variable {s} {u : State} {c : Cont}

/-- A turn of another agent, what the wait awaits being there once it is taken. -/
theorem State.step_of_wait_met (hc : s.cont = some c) (hu : s.agentMoved u) (hr : u.contReady c = true) :
    step s = .next (u.suspend c).settle :=
  (s.step_of_agentMoved u c hc hu hr).trans
    (congrArg Host.Outcome.next (u.settle_suspend_of_contReady (State.agentMoved_keeps hu).1 hr).symm)

theorem State.step_of_lpPrefix_met {a b : Byte} (hc : s.cont = some (.lpPrefix d k)) (hu : s.agentMoved u)
    (hq : u.rxq = a :: b :: q) : step s = .next (u.suspend (.lpPrefix d k)).settle :=
  State.step_of_wait_met hc hu ((u.contReady_lpPrefix_iff d k).2 (hq ▸ Nat.le_add_left 2 q.length))

theorem State.step_of_lpLen_met {lo hi : Byte} (hc : s.cont = some (.lpLen k)) (hu : s.agentMoved u)
    (hq : u.rxq = lo :: hi :: q) : step s = .next (u.suspend (.lpLen k)).settle :=
  State.step_of_wait_met hc hu ((u.contReady_lpLen_iff k).2 (hq ▸ Nat.le_add_left 2 q.length))

theorem State.step_of_lpData_met {n : Nat} (hc : s.cont = some (.lpData k n)) (hu : s.agentMoved u)
    (hlen : n ≤ u.rxq.length) : step s = .next (u.suspend (.lpData k n)).settle :=
  State.step_of_wait_met hc hu ((u.contReady_lpData_iff k n).2 hlen)

end LpDec

/-- Settles O47: the whole response queued, or what one wait awaits. -/
theorem lpDecReceives : Obligations.LpDecReceives := by
  refine ⟨decode_encode (i := .lpDec 0#8) rfl, decode_encode (i := .lpDec 1#8) rfl,
    fun s k d q ho hu hk => ⟨fun hq => ?plain, fun hq hd hfit => ?data⟩,
    fun s u k q hu => ⟨fun hc hq => ?ok, fun hc hq hlen => ?okData, fun d hc hq hk hlen => ?poll,
      fun lo hi hc hq hlen hfit => ?length, fun hc hq hfit => ?noData, fun n hc hlen hfit => ?awaitedData⟩⟩
  case plain =>
    rw [List.append_assoc] at hq
    rw [exec_lpDec_after_polls s 0#8 ho hu hk hq]
    exact congrArg _ (State.settle_lpPrefix_ok { s with rxq := 0x4F#8 :: 0x4B#8 :: q } hu rfl)
  case data =>
    have hlength : (BitVec.ofNat 8 (d.length % 256)).toNat + 256 * (BitVec.ofNat 8 (d.length / 256)).toNat = d.length := by
      simp only [BitVec.toNat_ofNat]
      omega
    rw [List.append_assoc, List.append_assoc] at hq
    refine ⟨_, Memory.holds_storeBytes _ _ _, ?_⟩
    rw [exec_lpDec_of_data s ho hu hk hq hlength (by simp) hfit]
    exact congrArg _ (State.lpReceived_of_append { s with rxq := d ++ q } rfl)
  all_goals obtain ⟨hfree, hx, hpbuf, _, _⟩ := State.agentMoved_keeps hu
  case ok =>
    rw [State.step_of_lpPrefix_met hc hu hq, u.settle_lpPrefix_ok hfree hq, hx]
  case okData =>
    rw [State.step_of_lpPrefix_met hc hu hq, u.settle_lpPrefix_ok_data hfree hq]
    exact congrArg _ (State.settle_of_not_contReady _ (.lpLen k) rfl (decide_eq_false hlen.not_ge))
  case poll =>
    rw [State.step_of_lpPrefix_met hc hu hq, u.settle_lpPrefix_pd hfree hq hk]
    exact congrArg _ (State.settle_of_not_contReady _ (.lpPrefix d (k + 1)) rfl (decide_eq_false hlen.not_ge))
  case length =>
    rw [State.step_of_lpLen_met hc hu hq, u.settle_lpLen_positive hfree hq (Nat.ne_zero_of_lt hlen) (hx ▸ hfit)]
    exact congrArg _ (State.settle_of_not_contReady _ (.lpData k _) rfl (decide_eq_false hlen.not_ge))
  case noData =>
    rw [State.step_of_lpLen_met hc hu hq, u.settle_lpLen_zero hfree hq rfl (hx ▸ hfit), ← hx]
    rfl
  case awaitedData =>
    rw [← hx] at hfit
    rw [State.step_of_lpData_met hc hu hlen, u.settle_lpData hfree hlen hfit, ← hx, ← hpbuf]
    exact ⟨_, Memory.holds_storeBytes _ _ _, rfl⟩

/-- Settles O48: each fault from the wait that meets it, and `Timeout` in each wait. -/
theorem lpDecFaults : Obligations.LpDecFaults := by
  refine fun s k q => ⟨fun ho d => exec_of_not_opened s (.lpDec d) ho rfl,
    fun ho hu => ⟨fun hk hq d => ?fl, fun a b hk hq hok hfl hpd d => ?unknown, fun hq d => ?polls,
      fun lo hi hk hq hfit => ?range⟩,
    fun rest ht => ⟨fun d hc hlen => ?pollTimeout, fun hc hlen => ?lengthTimeout, fun n hc hlen => ?dataTimeout⟩,
    fun u hu => ⟨fun d hc hq => ?awaitedFl, fun d a b hc hq hok hfl hpd => ?awaitedUnknown, fun d hc hq => ?awaitedPoll,
      fun lo hi hc hq hfit => ?awaitedRange⟩⟩
  case fl =>
    rw [List.append_assoc] at hq
    rw [exec_lpDec_after_polls s d ho hu hk hq]
    exact congrArg _ (State.settle_lpPrefix_fl { s with rxq := 0x46#8 :: 0x4C#8 :: q } hu rfl)
  case unknown =>
    rw [List.append_assoc] at hq
    rw [exec_lpDec_after_polls s d ho hu hk hq]
    exact congrArg _ (State.settle_lpPrefix_unknown { s with rxq := a :: b :: q } hu rfl hok hfl hpd)
  case polls =>
    rw [List.replicate_succ' (n := 500), List.flatten_append, List.append_assoc] at hq
    rw [exec_lpDec_after_polls s d ho hu le_rfl hq]
    exact congrArg _ (State.settle_lpPrefix_last_pd { s with rxq := 0x50#8 :: 0x44#8 :: q } hu rfl)
  case range =>
    rw [List.append_assoc] at hq
    rw [exec_lpDec_data_after_polls s ho hu hk hq]
    exact congrArg _ (State.settle_lpLen_not_fits { s with rxq := lo :: hi :: q } hu rfl hfit)
  case pollTimeout => exact State.step_of_wait_timeout hc ht (decide_eq_false hlen.not_ge) fun _ => rfl
  case lengthTimeout => exact State.step_of_wait_timeout hc ht (decide_eq_false hlen.not_ge) fun _ => rfl
  case dataTimeout => exact State.step_of_wait_timeout hc ht (decide_eq_false hlen.not_ge) fun _ => rfl
  all_goals obtain ⟨hfree, hx, _, _, _⟩ := State.agentMoved_keeps hu
  case awaitedFl => rw [State.step_of_lpPrefix_met hc hu hq, u.settle_lpPrefix_fl hfree hq]
  case awaitedUnknown => rw [State.step_of_lpPrefix_met hc hu hq, u.settle_lpPrefix_unknown hfree hq hok hfl hpd]
  case awaitedPoll => rw [State.step_of_lpPrefix_met hc hu hq, u.settle_lpPrefix_last_pd hfree hq]
  case awaitedRange => rw [State.step_of_lpLen_met hc hu hq, u.settle_lpLen_not_fits hfree hq (hx ▸ hfit), hx]

end Sys2Proof.Machine
end

section
/-! `SL.RSP` and `W21.CHK` (O49, O51), and the frame of `W21.ENC` given to `W21.CHK` (O52). Each operation is its chain of checks on
the bytes of the range, each check with the state it ends in. That an altered byte is found rests on `crc16`: its byte step is
injective in the remainder and in the byte, so one byte altered alters the remainder (`crc16_set_ne`). -/

namespace Sys2Proof.Machine

/-! ### Fields of a frame (R12) -/

theorem slice_getD (f : List Byte) {a b k : Nat} (hk : a + k < b) : (slice f a b).getD k 0#8 = f.getD (a + k) 0#8 := by
  have hin : k < b - a := by omega
  simp [slice, List.getD_eq_getElem?_getD, List.getElem?_take_of_lt hin]

theorem slice_length {f : List Byte} {a b : Nat} (hb : b ≤ f.length) : (slice f a b).length = b - a := by
  rw [slice, List.length_take, List.length_drop]
  omega

theorem toNat_fromLe16_slice (f : List Byte) {a b : Nat} (hb : a + 1 < b) :
    (fromLe16 (slice f a b)).toNat = (f.getD a 0#8).toNat + 256 * (f.getD (a + 1) 0#8).toNat := by
  rw [toNat_fromLe16, slice_getD f (by omega), slice_getD f hb, Nat.add_zero]

theorem fromLe16_pair_inj {a b c d : Byte} (h : fromLe16 [a, b] = fromLe16 [c, d]) : a = c ∧ b = d := by
  have hnum : a.toNat + 256 * b.toNat = c.toNat + 256 * d.toNat :=
    (toNat_fromLe16 [a, b]).symm.trans ((congrArg BitVec.toNat h).trans (toNat_fromLe16 [c, d]))
  exact ⟨BitVec.eq_of_toNat_eq (by omega), BitVec.eq_of_toNat_eq (by omega)⟩

theorem fromLe32_eq_ofNat (bs : List Byte) : fromLe32 bs = BitVec.ofNat 32 ((bs.getD 0 0#8).toNat +
    2 ^ 8 * (bs.getD 1 0#8).toNat + 2 ^ 16 * (bs.getD 2 0#8).toNat + 2 ^ 24 * (bs.getD 3 0#8).toNat) := by
  have h32 := toNat_append_eq_add (bs.getD 3 0#8) (bs.getD 2 0#8)
  have h321 := toNat_append_eq_add (bs.getD 3 0#8 ++ bs.getD 2 0#8) (bs.getD 1 0#8)
  have h3210 := toNat_append_eq_add (bs.getD 3 0#8 ++ bs.getD 2 0#8 ++ bs.getD 1 0#8) (bs.getD 0 0#8)
  apply BitVec.eq_of_toNat_eq
  unfold fromLe32
  rw [BitVec.toNat_ofNat, h3210, h321, h32]
  omega

theorem fromLe32_slice (f : List Byte) {a b : Nat} (hb : a + 3 < b) : fromLe32 (slice f a b) = BitVec.ofNat 32
    ((f.getD a 0#8).toNat + 2 ^ 8 * (f.getD (a + 1) 0#8).toNat + 2 ^ 16 * (f.getD (a + 2) 0#8).toNat
      + 2 ^ 24 * (f.getD (a + 3) 0#8).toNat) := by
  rw [fromLe32_eq_ofNat, slice_getD f (by omega), slice_getD f (by omega), slice_getD f (by omega), slice_getD f hb, Nat.add_zero]

/-! ### `SL.RSP` (R289, R290) -/

section SlRsp

variable (s : State) (op : Byte) {f : List Byte}

/-- `SL.RSP` once `esp_response` has answered (R290). -/
def State.slRspEnds (s : State) : EspResponse → State
  | .bad c info => s.raise c info
  | .good value d => ((s.setX6 value).setX7 (BitVec.ofNat 32 d.length)).complete

theorem exec_slRsp_of_shows (hfit : fits s.x.x0 s.x.x1.toNat) (hm : s.pbuf.shows s.x.x0.toNat s.x.x1.toNat f) :
    exec (.slRsp op) s = .next (s.slRspEnds (espResponse f op)) := by
  refine congrArg Host.Outcome.next ((s.withInput_of_shows _ hfit hm).trans ?_)
  cases espResponse f op <;> rfl

/-- The checks of `esp_response` in their order, each with the state it ends `SL.RSP` in. -/
theorem State.slRspEnds_espResponse (f : List Byte) : s.slRspEnds (espResponse f op) =
    if f.length < 10 then s.faulted 0x04#8 (BitVec.ofNat 32 (3 * 2 ^ 16 + f.length))
    else if f.getD 0 0#8 ≠ 0x01#8 then s.faulted 0x04#8 (BitVec.ofNat 32 (4 * 2 ^ 16 + (f.getD 0 0#8).toNat))
    else if f.getD 1 0#8 ≠ op then s.faulted 0x04#8 (BitVec.ofNat 32 (5 * 2 ^ 16 + (f.getD 1 0#8).toNat))
    else if (f.getD 2 0#8).toNat + 256 * (f.getD 3 0#8).toNat ≠ f.length - 8 then
      s.faulted 0x04#8 (BitVec.ofNat 32 (6 * 2 ^ 16 + ((f.getD 2 0#8).toNat + 256 * (f.getD 3 0#8).toNat)))
    else if f.getD (f.length - 2) 0#8 ≠ 0x00#8 then
      s.faulted 0x05#8 (BitVec.ofNat 32
        ((f.getD (f.length - 2) 0#8).toNat + 256 * (f.getD (f.length - 1) 0#8).toNat))
    else State.succeeded { s with x := { s.x with
      x6 := BitVec.ofNat 32 ((f.getD 4 0#8).toNat + 2 ^ 8 * (f.getD 5 0#8).toNat + 2 ^ 16 * (f.getD 6 0#8).toNat
        + 2 ^ 24 * (f.getD 7 0#8).toNat)
      x7 := BitVec.ofNat 32 (f.length - 10) } } := by
  have hsize := toNat_fromLe16_slice f (a := 2) (b := 4) (by decide)
  rw [espResponse, hsize]
  simp only [apply_ite s.slRspEnds]
  refine ite_congr rfl (fun hshort => ?short) fun hlong => ite_congr rfl (fun _ => ?direction) fun _ =>
    ite_congr rfl (fun _ => ?opcode) fun _ => ite_congr rfl (fun _ => ?size) fun _ =>
    ite_congr rfl (fun _ => ?status) fun _ => ?good
  case short => exact congrArg (s.faulted 0x04#8) (framingInfo_eq rfl (Nat.mod_eq_of_lt (by omega)))
  case direction | opcode => exact congrArg (s.faulted 0x04#8) (framingInfo_eq rfl (toNat_setWidth_byte _))
  case size => exact congrArg (s.faulted 0x04#8) (framingInfo_eq rfl hsize)
  case status =>
    have hlast : f.length - 2 + 1 = f.length - 1 := by omega
    refine congrArg (s.faulted 0x05#8) ?_
    rw [← BitVec.ofNat_toNat, toNat_fromLe16_slice f (by omega), hlast]
  case good =>
    have hdata : (slice f 8 (f.length - 2)).length = f.length - 10 := slice_length (Nat.sub_le _ _)
    rw [State.slRspEnds, fromLe32_slice f (by decide), hdata]
    rfl

end SlRsp

/-- Settles O49: the range, then the checks of `esp_response` (`State.slRspEnds_espResponse`). -/
theorem slRspTakesApart : Obligations.SlRspTakesApart := by
  refine ⟨fun op => decode_encode (i := .slRsp op) rfl,
    fun s op f n len hn => ⟨fun hfit => ?range, fun hfit hm hlen => ?checks⟩⟩
  case range =>
    subst hn
    exact congrArg Host.Outcome.next (s.withInput_of_not_fits _ hfit)
  case checks =>
    have hlength : f.length = n := hm.1
    subst hn hlen
    rw [exec_slRsp_of_shows s op hfit hm, s.slRspEnds_espResponse op f, hlength]

/-! ### `W21.CHK` (R298) -/

section W21Chk

variable (s : State) {f : List Byte}

/-- `W21.CHK` on the candidate `b`, once its checks have answered (R298). -/
def State.w21ChkEnds (s : State) (b : List Byte) : Option Word → State
  | some info => s.raise .protocolFraming info
  | none => ((s.setX6 (fromLe32 (slice b 5 9))).setX7 (BitVec.ofNat 32 (b.length - 9))).complete

theorem exec_w21Chk_of_shows (hfit : fits s.x.x0 s.x.x1.toNat) (hm : s.pbuf.shows s.x.x0.toNat s.x.x1.toNat f) :
    exec .w21Chk s = .next (s.w21ChkEnds f (w21Check f)) := by
  refine congrArg Host.Outcome.next ((s.withInput_of_shows _ hfit hm).trans ?_)
  cases w21Check f <;> rfl

/-- The checks of `W21.CHK` in their order, each with the state it ends in. -/
theorem State.w21ChkEnds_w21Check (f : List Byte) : s.w21ChkEnds f (w21Check f) =
    if f.length < 9 ∨ 65538 < f.length then s.faulted 0x04#8 (BitVec.ofNat 32 (7 * 2 ^ 16 + f.length % 2 ^ 16))
    else if f.getD 0 0#8 ≠ 0x21#8 then s.faulted 0x04#8 (BitVec.ofNat 32 (8 * 2 ^ 16 + (f.getD 0 0#8).toNat))
    else if (f.getD 1 0#8).toNat + 256 * (f.getD 2 0#8).toNat ≠ f.length - 3 then
      s.faulted 0x04#8 (BitVec.ofNat 32 (9 * 2 ^ 16 + ((f.getD 1 0#8).toNat + 256 * (f.getD 2 0#8).toNat)))
    else if (f.getD 3 0#8).toNat + 256 * (f.getD 4 0#8).toNat ≠ (Machine.crc16 0xFFFF#16 (f.drop 5)).toNat then
      s.faulted 0x04#8 (BitVec.ofNat 32 (10 * 2 ^ 16 + (Machine.crc16 0xFFFF#16 (f.drop 5)).toNat))
    else State.succeeded { s with x := { s.x with
      x6 := BitVec.ofNat 32 ((f.getD 5 0#8).toNat + 2 ^ 8 * (f.getD 6 0#8).toNat + 2 ^ 16 * (f.getD 7 0#8).toNat
        + 2 ^ 24 * (f.getD 8 0#8).toNat)
      x7 := BitVec.ofNat 32 (f.length - 9) } } := by
  have hsize := toNat_fromLe16_slice f (a := 1) (b := 3) (by decide)
  have hcrc : fromLe16 (slice f 3 5) ≠ crc16CcittFalse (f.drop 5) ↔
      (f.getD 3 0#8).toNat + 256 * (f.getD 4 0#8).toNat ≠ (Machine.crc16 0xFFFF#16 (f.drop 5)).toNat := by
    rw [← toNat_fromLe16_slice f (a := 3) (b := 5) (by decide)]
    exact BitVec.toNat_ne_iff_ne.symm
  rw [w21Check, hsize]
  simp only [apply_ite (s.w21ChkEnds f)]
  refine ite_congr rfl (fun _ => ?length) fun _ => ite_congr rfl (fun _ => ?start) fun _ =>
    ite_congr rfl (fun _ => ?size) fun _ => ite_congr (propext hcrc) (fun _ => ?crc) fun _ => ?good
  case length => exact congrArg (s.faulted 0x04#8) (framingInfo_eq rfl (BitVec.toNat_ofNat _ _))
  case start => exact congrArg (s.faulted 0x04#8) (framingInfo_eq rfl (toNat_setWidth_byte _))
  case size => exact congrArg (s.faulted 0x04#8) (framingInfo_eq rfl hsize)
  case crc => exact congrArg (s.faulted 0x04#8) (framingInfo_eq rfl rfl)
  case good =>
    rw [State.w21ChkEnds, fromLe32_slice f (by decide)]
    rfl

end W21Chk

/-- Settles O51: the range, then the checks of `W21.CHK` (`State.w21ChkEnds_w21Check`). -/
theorem w21ChkChecks : Obligations.W21ChkChecks := by
  refine ⟨decode_encode (i := .w21Chk) rfl, fun s f n len c hn => ⟨fun hfit => ?range, fun hfit hm hlen hc => ?checks⟩⟩
  case range =>
    subst hn
    exact congrArg Host.Outcome.next (s.withInput_of_not_fits _ hfit)
  case checks =>
    have hlength : f.length = n := hm.1
    subst hn hlen hc
    rw [exec_w21Chk_of_shows s hfit hm, s.w21ChkEnds_w21Check f, hlength]

/-! ### One byte altered alters the CRC-16 (R121, R122) -/

theorem crc16Bit_eq_zero {c : Half} (h : crc16Bit c = 0#16) : c = 0#16 := by
  cases hmsb : c.msb with
  | true =>
    have hlow : (crc16Bit c).getLsbD 0 = true := by simp [crc16Bit, hmsb]
    rw [h] at hlow
    cases hlow
  | false =>
    rw [crc16Bit_of_not_msb hmsb] at h
    have hdouble := congrArg BitVec.toNat h
    have hhalf : 2 * c.toNat < 2 ^ 16 := BitVec.msb_eq_false_iff_two_mul_lt.1 hmsb
    apply BitVec.eq_of_toNat_eq
    simp only [BitVec.toNat_shiftLeft, Nat.shiftLeft_eq, BitVec.toNat_ofNat] at hdouble ⊢
    omega

theorem crc16Bit_injective : Function.Injective crc16Bit := fun c d h =>
  BitVec.xor_eq_zero_iff.1 (crc16Bit_eq_zero ((crc16Bit_xor c d).trans (BitVec.xor_eq_zero_iff.2 h)))

theorem crc16Step_injective_remainder (b : Byte) : Function.Injective fun c => crc16Step c b := by
  intro c d (h : crc16Step c b = crc16Step d b)
  rw [crc16Step_eq_iterate, crc16Step_eq_iterate] at h
  exact (BitVec.xor_left_inj _).1 (crc16Bit_injective.iterate 8 h)

theorem crc16Step_injective_byte (c : Half) : Function.Injective (crc16Step c) := by
  intro a b h
  rw [crc16Step_eq_iterate, crc16Step_eq_iterate] at h
  have hshift : a.setWidth 16 <<< 8 = b.setWidth 16 <<< 8 := (BitVec.xor_right_inj c).1 (crc16Bit_injective.iterate 8 h)
  have hnum := congrArg BitVec.toNat hshift
  apply BitVec.eq_of_toNat_eq
  simp only [BitVec.toNat_shiftLeft, BitVec.toNat_setWidth, Nat.shiftLeft_eq] at hnum
  omega

theorem crc16_injective_remainder (m : List Byte) : Function.Injective fun c => crc16 c m := by
  induction m with
  | nil => exact fun _ _ h => h
  | cons b m ih => exact ih.comp (crc16Step_injective_remainder b)

theorem crc16_set_ne (m : List Byte) (c : Half) {k : Nat} {v : Byte} (hk : k < m.length) (hv : m.getD k 0#8 ≠ v) :
    crc16 c (m.set k v) ≠ crc16 c m := by
  induction m generalizing c k with
  | nil => exact absurd hk (Nat.not_lt_zero k)
  | cons b m ih =>
    cases k with
    | zero => exact (crc16_injective_remainder m).ne ((crc16Step_injective_byte c).ne hv.symm)
    | succ k => exact ih (crc16Step c b) (Nat.lt_of_succ_lt_succ hk) hv

/-! ### The frame of `W21.ENC` given to `W21.CHK` (R295, R298) -/

/-- Of a candidate with the start byte and the length it has, the CRC decides. -/
theorem w21Check_of_size {t : List Byte} (hmin : 6 ≤ t.length) (hmax : t.length ≤ 65535) :
    w21Check ([0x21#8] ++ le16 (BitVec.ofNat 16 t.length) ++ t) =
      if fromLe16 (t.take 2) ≠ crc16CcittFalse (t.drop 2) then some (framingInfo 10#16 (crc16CcittFalse (t.drop 2)))
      else none := by
  have hlength : ([0x21#8] ++ le16 (BitVec.ofNat 16 t.length) ++ t).length = t.length + 3 := by simp [le16]
  have hstart : ([0x21#8] ++ le16 (BitVec.ofNat 16 t.length) ++ t).getD 0 0#8 = 0x21#8 := rfl
  have hsize : (fromLe16 (slice ([0x21#8] ++ le16 (BitVec.ofNat 16 t.length) ++ t) 1 3)).toNat = t.length + 3 - 3 := by
    rw [show slice ([0x21#8] ++ le16 (BitVec.ofNat 16 t.length) ++ t) 1 3 = le16 (BitVec.ofNat 16 t.length) from rfl,
      fromLe16_le16, BitVec.toNat_ofNat, Nat.mod_eq_of_lt (by omega), Nat.add_sub_cancel]
  rw [w21Check, hlength, if_neg (by omega), if_neg (not_not.2 hstart), if_neg (not_not.2 hsize)]
  rfl

/-- What follows the length field of a WM frame: the CRC, then the body it is over (R295). -/
def w21Rest (cmd : Word) (q : List Byte) : List Byte := le16 (crc16CcittFalse (w21Body cmd q)) ++ w21Body cmd q

section Frame

variable (cmd : Word) {q : List Byte} {k : Nat} {v : Byte}

theorem w21Rest_length : (w21Rest cmd q).length = q.length + 6 := by
  rw [w21Rest, List.length_append, w21Body_length]
  exact Nat.add_comm 2 _

theorem w21Frame_eq_w21Rest :
    w21Frame cmd q = [0x21#8] ++ le16 (BitVec.ofNat 16 (w21Rest cmd q).length) ++ w21Rest cmd q := by
  rw [w21Rest_length, w21Frame, w21Body_length, w21Rest, List.append_assoc]

theorem w21Frame_getD (j : Nat) : (w21Frame cmd q).getD (j + 3) 0#8 = (w21Rest cmd q).getD j 0#8 := by
  rw [w21Frame_eq_w21Rest]
  generalize w21Rest cmd q = t
  rfl

theorem w21Check_w21Frame (hq : q.length ≤ 65529) : w21Check (w21Frame cmd q) = none := by
  have hlength : (w21Rest cmd q).length = q.length + 6 := w21Rest_length cmd
  have hcrc : fromLe16 ((w21Rest cmd q).take 2) = crc16CcittFalse ((w21Rest cmd q).drop 2) := fromLe16_le16 _
  rw [w21Frame_eq_w21Rest, w21Check_of_size (by omega) (by omega)]
  exact if_neg (not_not.2 hcrc)

/-- One byte altered in the CRC field, or in the body, and the two do not agree. -/
theorem crc_ne_of_w21Rest_set (hk : k < q.length + 6) (hv : (w21Rest cmd q).getD k 0#8 ≠ v) :
    fromLe16 (((w21Rest cmd q).set k v).take 2) ≠ crc16CcittFalse (((w21Rest cmd q).set k v).drop 2) := by
  match k with
  | 0 => exact fun h => hv (fromLe16_pair_inj (h.trans (fromLe16_le16 _).symm)).1.symm
  | 1 => exact fun h => hv (fromLe16_pair_inj (h.trans (fromLe16_le16 _).symm)).2.symm
  | k + 2 =>
    have hin : k < (w21Body cmd q).length := by
      rw [w21Body_length]
      omega
    intro h
    exact crc16_set_ne (w21Body cmd q) _ hin hv (h.symm.trans (fromLe16_le16 _))

theorem w21Check_w21Frame_set (hq : q.length ≤ 65529) (hk3 : 3 ≤ k) (hk : k < q.length + 9)
    (hv : (w21Frame cmd q).getD k 0#8 ≠ v) : ∃ c, w21Check ((w21Frame cmd q).set k v) = some (framingInfo 10#16 c) := by
  obtain ⟨j, rfl⟩ : ∃ j, k = j + 3 := ⟨k - 3, by omega⟩
  have hlength : ((w21Rest cmd q).set j v).length = q.length + 6 := by rw [List.length_set, w21Rest_length]
  have hset : (w21Frame cmd q).set (j + 3) v =
      [0x21#8] ++ le16 (BitVec.ofNat 16 ((w21Rest cmd q).set j v).length) ++ (w21Rest cmd q).set j v := by
    rw [w21Frame_eq_w21Rest, List.length_set]
    rfl
  rw [w21Frame_getD] at hv
  refine ⟨crc16CcittFalse (((w21Rest cmd q).set j v).drop 2), ?_⟩
  rw [hset, w21Check_of_size (by omega) (by omega)]
  exact if_pos (crc_ne_of_w21Rest_set cmd (by omega) hv)

end Frame

/-- Settles O52: the frame passes every check (`w21Check_w21Frame`), and altered it fails the last (`w21Check_w21Frame_set`). -/
theorem w21RoundTrip : Obligations.W21RoundTrip := by
  refine fun s cmd q hq hlen hfit => ⟨fun hm => ?accepted, fun k v hk3 hk hv hm => ?refused⟩
  case accepted =>
    have hcmd : fromLe32 (slice (w21Frame cmd q) 5 9) = cmd := fromLe32_le32 cmd
    have hparams : (w21Frame cmd q).length - 9 = q.length := by rw [hm.1, hlen, Nat.add_sub_cancel]
    rw [exec_w21Chk_of_shows s hfit hm, w21Check_w21Frame cmd hq, State.w21ChkEnds, hcmd, hparams]
    rfl
  case refused =>
    obtain ⟨c, hc⟩ := w21Check_w21Frame_set cmd hq hk3 hk hv
    refine ⟨c, ?_⟩
    rw [exec_w21Chk_of_shows s hfit hm, hc]
    exact congrArg (fun info => Host.Outcome.next (s.faulted 0x04#8 info)) (framingInfo_eq rfl rfl)

end Sys2Proof.Machine
end

section
/-! The codes an operation ends with (O56), the refusal of a word by a busy block (O6) and the values after POR (O10). The codes
that R333 gives an operation are checked where a fault is taken, check by check; how the block gets from one suspension point to
the next is not looked at again, it is `State.Ran`. -/

namespace Sys2Proof.Machine

/-- If the operation `i` has ended at `t`, it ended well or with one of the codes that R333 gives it. -/
def State.EndsWithin (i : Instr) (t : State) : Prop := t.cont = none → t.status = 0x00#8 ∨ t.status ∈ faultCodes i

section Pieces

variable {i : Instr} (u : State)

/-! ### The ends, and suspension -/

theorem State.endsWithin_complete : u.complete.EndsWithin i := fun _ => .inl rfl

/-- The one place where a code is looked up in the table of R333. -/
theorem State.endsWithin_raise (c : StatusCode) (info : Word)
    (hc : c.code ∈ faultCodes i := by simp [faultCodes, StatusCode.code, Cont.instr]) : (u.raise c info).EndsWithin i :=
  fun _ => .inr hc

theorem State.endsWithin_of_cont (c : Cont) (hc : u.cont = some c) : u.EndsWithin i := fun hn => nomatch hc.symm.trans hn

theorem State.endsWithin_suspend (c : Cont) : (u.suspend c).EndsWithin i := (u.suspend c).endsWithin_of_cont c rfl

/-! ### The checks, each with its fault -/

section Checks

variable {u}

theorem State.endsWithin_inContext {go : State → State} (hgo : (go u).EndsWithin i)
    (hc : 0x14#8 ∈ faultCodes i := by simp [faultCodes]) : (u.inContext go).EndsWithin i :=
  u.inContext_elim go (fun _ => hgo) fun _ => u.endsWithin_raise _ _ hc

theorem State.endsWithin_withInput {go : List Byte → State} (hgo : ∀ m, (go m).EndsWithin i)
    (hc : 0x11#8 ∈ faultCodes i := by simp [faultCodes]) : (u.withInput go).EndsWithin i :=
  u.withInput_elim go (fun _ => hgo _) fun _ => u.endsWithin_raise _ _ hc

theorem State.endsWithin_withRange (addr : Word) (n : Nat) {go : State → State} (hgo : (go u).EndsWithin i)
    (hc : 0x11#8 ∈ faultCodes i := by simp [faultCodes]) : (u.withRange addr n go).EndsWithin i :=
  u.withRange_elim addr n go (fun _ => hgo) fun _ => u.endsWithin_raise _ _ hc

theorem State.endsWithin_withRate {go : State → State} (hgo : (go u).EndsWithin i)
    (hc : 0x13#8 ∈ faultCodes i := by simp [faultCodes]) : (u.withRate go).EndsWithin i :=
  u.withRate_elim go (fun _ => hgo) fun _ => u.endsWithin_raise _ _ hc

theorem State.endsWithin_withLength (limit : Nat) {go : State → State} (hgo : (go u).EndsWithin i)
    (hc : 0x13#8 ∈ faultCodes i := by simp [faultCodes]) : (u.withLength limit go).EndsWithin i :=
  u.withLength_elim limit go (fun _ => hgo) fun _ => u.endsWithin_raise _ _ hc

theorem State.endsWithin_withV16 {go : State → State} (hgo : (go u).EndsWithin i)
    (hc : 0x15#8 ∈ faultCodes i := by simp [faultCodes]) : (u.withV16 go).EndsWithin i :=
  u.withV16_elim go (fun _ => hgo) fun _ => u.endsWithin_raise _ _ hc

theorem State.endsWithin_withV32 {go : State → State} (hgo : (go u).EndsWithin i)
    (hc : 0x15#8 ∈ faultCodes i := by simp [faultCodes]) : (u.withV32 go).EndsWithin i :=
  u.withV32_elim go (fun _ => hgo) fun _ => u.endsWithin_raise _ _ hc

theorem State.endsWithin_withVmd5 {go : State → State} (hgo : (go u).EndsWithin i)
    (hc : 0x15#8 ∈ faultCodes i := by simp [faultCodes]) : (u.withVmd5 go).EndsWithin i :=
  u.withVmd5_elim go (fun _ => hgo) fun _ => u.endsWithin_raise _ _ hc

theorem State.endsWithin_withVsha {go : State → State} (hgo : (go u).EndsWithin i)
    (hc : 0x15#8 ∈ faultCodes i := by simp [faultCodes]) : (u.withVsha go).EndsWithin i :=
  u.withVsha_elim go (fun _ => hgo) fun _ => u.endsWithin_raise _ _ hc

theorem State.endsWithin_withMd5Room (n : Nat) {go : State → State} (hgo : (go u).EndsWithin i)
    (hc : 0x12#8 ∈ faultCodes i := by simp [faultCodes]) : (u.withMd5Room n go).EndsWithin i :=
  u.withMd5Room_elim n go (fun _ => hgo) fun _ => u.endsWithin_raise _ _ hc

theorem State.endsWithin_withShaRoom (n : Nat) {go : State → State} (hgo : (go u).EndsWithin i)
    (hc : 0x12#8 ∈ faultCodes i := by simp [faultCodes]) : (u.withShaRoom n go).EndsWithin i :=
  u.withShaRoom_elim n go (fun _ => hgo) fun _ => u.endsWithin_raise _ _ hc

end Checks

/-! ### Memory, the transport, the queue -/

theorem State.endsWithin_memWrite (addr : Word) (bs : List Byte) {fail ok : State → State} (hfail : (fail u).EndsWithin i)
    (hok : ∀ t, (ok t).EndsWithin i) : (u.memWrite addr bs fail ok).EndsWithin i :=
  u.memWrite_elim addr bs fail ok (fun _ => hok _) fun _ => hfail

theorem State.endsWithin_txPut (bs : List Byte) {fail ok : State → State} (hfail : ∀ t, (fail t).EndsWithin i)
    (hok : ∀ t, (ok t).EndsWithin i) : (u.txPut bs fail ok).EndsWithin i :=
  u.txPut_elim bs fail ok (fun _ => hok _) (fun _ _ => hfail _) fun _ _ => hok _

theorem State.endsWithin_txFinal (bs : List Byte) (hc : 0x02#8 ∈ faultCodes i := by simp [faultCodes]) :
    (u.txFinal bs).EndsWithin i :=
  u.endsWithin_txPut bs (fun t => t.endsWithin_raise _ _ hc) State.endsWithin_complete

theorem State.endsWithin_suspendUnless (ready : Bool) (c : Cont) {go : State → State} (hgo : (go u).EndsWithin i) :
    (u.suspendUnless ready c go).EndsWithin i :=
  u.suspendUnless_elim ready c go (fun _ => hgo) fun _ => u.endsWithin_suspend c

theorem State.endsWithin_rxByte (c : Cont) {go : State → Byte → State} (hgo : ∀ t b, (go t b).EndsWithin i) :
    (u.rxByte (u.suspend c) go).EndsWithin i :=
  u.rxByte_elim _ go (fun _ => u.endsWithin_suspend c) fun _ _ _ => hgo _ _

theorem State.endsWithin_slipReceive (c : Cont) {fail : State → StatusCode → Word → State}
    {frame : State → List Byte → State} (hfail : ∀ t info, (fail t .protocolFraming info).EndsWithin i)
    (hframe : ∀ t f, (frame t f).EndsWithin i) : (u.slipReceive (u.suspend c) fail frame).EndsWithin i :=
  u.slipReceive_elim _ fail frame (fun _ => u.endsWithin_suspend c) (fun _ _ _ => hframe _ _) fun _ _ _ => hfail _ _

/-! ### `RX.RAW` (R105) -/

theorem State.endsWithin_rxRawReady : u.rxRawReady.EndsWithin .rxRaw :=
  State.endsWithin_memWrite _ _ _ (State.endsWithin_raise _ _ _) fun _ => State.endsWithin_complete _

/-! ### `XM.SEND` (R193, R198 to R206) -/

theorem State.endsWithin_xmAbort (c : StatusCode) (info : Word)
    (hc : c.code ∈ faultCodes .xmSend := by simp [faultCodes, StatusCode.code]) : (u.xmAbort c info).EndsWithin .xmSend :=
  State.endsWithin_raise _ c info hc

theorem State.endsWithin_xmTransmitPacket : u.xmTransmitPacket.EndsWithin .xmSend :=
  u.checkpoint_elim _ _ (fun _ => State.endsWithin_xmAbort _ _ _) fun _ =>
    State.endsWithin_txPut _ _ (fun t => t.endsWithin_xmAbort _ _) fun t => t.endsWithin_suspend _

theorem State.endsWithin_xmTransmitEot : u.xmTransmitEot.EndsWithin .xmSend :=
  u.checkpoint_elim _ _ (fun _ => State.endsWithin_xmAbort _ _ _) fun _ =>
    State.endsWithin_txPut _ _ (fun t => t.endsWithin_xmAbort _ _) fun t => t.endsWithin_suspend _

theorem State.endsWithin_xmNext : u.xmNext.EndsWithin .xmSend := by
  unfold State.xmNext
  split
  · exact State.endsWithin_xmTransmitPacket _
  · exact State.endsWithin_xmTransmitEot _

theorem State.endsWithin_xmRetry {again : State → State} (hagain : ∀ t, (again t).EndsWithin .xmSend) :
    (u.xmRetry again).EndsWithin .xmSend := by
  unfold State.xmRetry
  split
  · exact u.endsWithin_xmAbort _ _
  · exact hagain _

theorem State.endsWithin_xmSendStart : u.xmSendStart.EndsWithin .xmSend :=
  State.endsWithin_inContext <| State.endsWithin_withInput fun _ => State.endsWithin_suspend _ _

theorem State.endsWithin_xmInitByte (b : Byte) : (u.xmInitByte b).EndsWithin .xmSend := by
  unfold State.xmInitByte
  split
  · exact State.endsWithin_xmNext _
  split
  · exact State.endsWithin_xmNext _
  · exact u.endsWithin_xmAbort _ _

theorem State.endsWithin_xmPacketByte (b : Byte) : (u.xmPacketByte b).EndsWithin .xmSend := by
  unfold State.xmPacketByte
  split
  · exact State.endsWithin_xmNext _
  split
  · exact u.endsWithin_xmAbort _ _
  · exact u.endsWithin_xmRetry State.endsWithin_xmTransmitPacket

theorem State.endsWithin_xmEotResponse (b : Byte) : (u.xmEotResponse b).EndsWithin .xmSend := by
  unfold State.xmEotResponse
  split
  · exact State.endsWithin_complete _
  split
  · exact u.endsWithin_xmAbort _ _
  · exact u.endsWithin_xmRetry State.endsWithin_xmTransmitEot

/-! ### Baud-rate negotiation (R237 to R246) -/

theorem State.endsWithin_brFail (c : StatusCode) (info : Word)
    (hc : c.code ∈ faultCodes i := by simp [faultCodes, StatusCode.code, Cont.instr]) : (u.brFail c info).EndsWithin i :=
  State.endsWithin_raise _ c info hc

theorem State.endsWithin_bkAttempt (cmd : List Byte) : (u.bkAttempt cmd).EndsWithin .brNegBk :=
  u.checkpoint_elim _ _ (fun _ => State.endsWithin_brFail _ _ _) fun _ =>
    State.endsWithin_txPut _ _ (fun t => t.endsWithin_brFail _ _) fun _ => State.endsWithin_suspend _ _

theorem State.endsWithin_bkStart : u.bkStart.EndsWithin .brNegBk :=
  State.endsWithin_inContext <| State.endsWithin_withInput fun cmd => State.endsWithin_withRange _ _ <|
    State.endsWithin_withRate <| u.brLatch.endsWithin_bkAttempt cmd

theorem State.endsWithin_bkRespReady : u.bkRespReady.EndsWithin .brNegBk :=
  State.endsWithin_memWrite _ _ _ (State.endsWithin_brFail _ _ _) fun _ => State.endsWithin_complete _

theorem State.endsWithin_bkFlushed (cmd : List Byte) : (u.bkFlushed cmd).EndsWithin .brNegBk :=
  State.endsWithin_suspendUnless _ _ _ (State.endsWithin_bkRespReady _)

theorem State.endsWithin_bkRespTimeout (cmd : List Byte) : (u.bkRespTimeout cmd).EndsWithin .brNegBk := by
  unfold State.bkRespTimeout
  dsimp only
  split
  · exact State.endsWithin_brFail _ _ _
  · exact State.endsWithin_bkAttempt _ cmd

/-- The checks of an ESP response fail with `ProtocolFraming` or with `ProtocolStatus` (R289). -/
theorem code_of_espResponse_bad {f : List Byte} {op : Byte} {c : StatusCode} {info : Word}
    (h : espResponse f op = .bad c info) : c = .protocolFraming ∨ c = .protocolStatus := by
  unfold espResponse at h
  split at h
  · cases h; exact .inl rfl
  split at h
  · cases h; exact .inl rfl
  split at h
  · cases h; exact .inl rfl
  split at h
  · cases h; exact .inl rfl
  split at h
  · cases h; exact .inr rfl
  · cases h

/-- The faults of an ESP response, for the operations that check one. -/
theorem code_mem_of_espResponse_bad {f : List Byte} {op : Byte} {c : StatusCode} {info : Word}
    (h : espResponse f op = .bad c info) (hframing : 0x04#8 ∈ faultCodes i := by simp [faultCodes])
    (hstatus : 0x05#8 ∈ faultCodes i := by simp [faultCodes]) : c.code ∈ faultCodes i := by
  rcases code_of_espResponse_bad h with rfl | rfl
  · exact hframing
  · exact hstatus

theorem State.endsWithin_espStart : u.espStart.EndsWithin .brNegEsp :=
  State.endsWithin_inContext <| State.endsWithin_withRate <|
    State.endsWithin_txPut _ _ (fun t => t.endsWithin_brFail _ _) fun _ => State.endsWithin_suspend _ _

theorem State.endsWithin_espFrame (f : List Byte) : (u.espFrame f).EndsWithin .brNegEsp := by
  unfold State.espFrame
  split
  · exact u.endsWithin_brFail _ _ (code_mem_of_espResponse_bad ‹_›)
  · exact u.endsWithin_memWrite _ _ (u.endsWithin_brFail _ _) fun _ => State.endsWithin_complete _

theorem State.endsWithin_espReady : u.espReady.EndsWithin .brNegEsp :=
  u.endsWithin_slipReceive _ (fun t _ => t.endsWithin_brFail _ _) State.endsWithin_espFrame

theorem State.endsWithin_wmStart : u.wmStart.EndsWithin .brNegWm :=
  State.endsWithin_inContext <| State.endsWithin_withRate <|
    State.endsWithin_txPut _ _ (fun t => t.endsWithin_brFail _ _) fun _ => State.endsWithin_suspend _ _

/-! ### `LP.DEC` (R275 to R278) and `SL.DEC` (R284) -/

section LpDec

variable {imm : Byte}

theorem State.endsWithin_lpDecStart (d : Bool) : (u.lpDecStart d).EndsWithin (.lpDec imm) :=
  State.endsWithin_inContext (State.endsWithin_suspend _ _)

theorem State.endsWithin_lpPrefixReady (d : Bool) (polls : Nat) : (u.lpPrefixReady d polls).EndsWithin (.lpDec imm) := by
  unfold State.lpPrefixReady State.lpPrefixBytes
  split
  · split
    · exact State.endsWithin_suspend _ _
    · exact State.endsWithin_complete _
  split
  · exact State.endsWithin_raise _ _ _
  split
  · split
    · exact State.endsWithin_raise _ _ _
    · exact State.endsWithin_suspend _ _
  · exact State.endsWithin_raise _ _ _

theorem State.endsWithin_lpDataReady (polls n : Nat) : (u.lpDataReady polls n).EndsWithin (.lpDec imm) :=
  State.endsWithin_memWrite _ _ _ (State.endsWithin_raise _ _ _) fun _ => State.endsWithin_complete _

theorem State.endsWithin_lpLenReady (polls : Nat) : (u.lpLenReady polls).EndsWithin (.lpDec imm) :=
  State.endsWithin_withRange _ _ <| State.endsWithin_suspendUnless _ _ _ (State.endsWithin_lpDataReady _ polls 0)

end LpDec

theorem State.endsWithin_slDecReady : u.slDecReady.EndsWithin .slDec :=
  u.endsWithin_slipReceive _ (fun t _ => t.endsWithin_raise _ _) fun t _ =>
    t.endsWithin_memWrite _ _ (t.endsWithin_raise _ _) fun _ => State.endsWithin_complete _

/-! ### Every suspension point, and the block's own run -/

theorem State.endsWithin_resume (c : Cont) : (u.resume c).EndsWithin c.instr := by
  cases c with
  | rxRaw => exact u.endsWithin_rxRawReady
  | xmInit => exact u.endsWithin_rxByte _ State.endsWithin_xmInitByte
  | xmPacket => exact u.endsWithin_rxByte _ State.endsWithin_xmPacketByte
  | xmEot => exact u.endsWithin_rxByte _ State.endsWithin_xmEotResponse
  | bkFlush cmd => exact u.endsWithin_bkFlushed cmd
  | bkResp cmd => exact u.endsWithin_bkRespReady
  | espResp => exact u.endsWithin_espReady
  | wmSwitch => exact State.endsWithin_complete _
  | lpPrefix d polls => exact u.endsWithin_lpPrefixReady d polls
  | lpPoll d polls => exact u.endsWithin_suspend _
  | lpLen polls => exact u.endsWithin_lpLenReady polls
  | lpData polls n => exact u.endsWithin_lpDataReady polls n
  | slDec => exact u.endsWithin_slDecReady

theorem State.endsWithin_expire (c : Cont) : (u.expire c).EndsWithin c.instr := by
  cases c with
  | rxRaw | lpPrefix _ _ | lpLen _ | lpData _ _ | slDec => exact u.endsWithin_raise _ _
  | xmInit => exact u.endsWithin_xmAbort _ _
  | xmPacket => exact u.endsWithin_xmRetry State.endsWithin_xmTransmitPacket
  | xmEot => exact u.endsWithin_xmRetry State.endsWithin_xmTransmitEot
  | bkResp cmd => exact u.endsWithin_bkRespTimeout cmd
  | espResp => exact u.endsWithin_brFail _ _
  | bkFlush _ | wmSwitch | lpPoll _ _ => exact u.endsWithin_suspend _

end Pieces

/-- Of the immediate of `LP.DEC` no bit counts for its codes (R333). -/
theorem faultCodes_asRun (i : Instr) : faultCodes (asRun i) = faultCodes i := by cases i <;> rfl

/-- A suspended operation has run up to its suspension point. -/
theorem State.ran_of_cont {u : State} {c : Cont} (hc : u.cont = some c) : u.Ran c.instr u := by
  have hu : u.suspend c = u := by
    unfold State.suspend
    rw [← hc]
  have hran : u.Ran c.instr (u.suspend c) := .suspended c (.refl _ u) (asRun_instr c).symm
  rwa [hu] at hran

section Run

variable {i : Instr} {s t : State}

/-- The operation that has run up to a suspension point is the one that goes on from it, with its codes. -/
theorem State.Ran.endsWithin_goOn (h : s.Ran i t) (hg : t.canGo = true) : t.goOn.EndsWithin i := by
  cases hc : t.cont with
  | none => simp [State.canGo, hc] at hg
  | some c =>
    have hcodes : faultCodes c.instr = faultCodes i := by rw [h.instr_of_cont c hc, faultCodes_asRun]
    rw [t.goOn_of_cont c hc, State.EndsWithin, ← hcodes]
    exact t.uncont.endsWithin_resume c

theorem State.Ran.endsWithin_settle (h : s.Ran i t) (ht : t.EndsWithin i) : t.settle.EndsWithin i :=
  have hstep : ∀ t, t.canGo = true → s.Ran i t ∧ t.EndsWithin i → s.Ran i t.goOn ∧ t.goOn.EndsWithin i :=
    fun _ hg ⟨hr, _⟩ => ⟨hr.goOn hg, hr.endsWithin_goOn hg⟩
  (State.settle_induct hstep t ⟨h, ht⟩).2

/-- R333 at the acceptance, operation by operation. -/
theorem endsWithin_of_exec (h : exec i s = .next t) : t.EndsWithin i := by
  have run : ∀ i, s.Before (partsWritten i) s := fun i => .refl _ s
  cases i with
  | ctxOpen =>
    cases h
    split
    · exact State.endsWithin_raise _ _ _
    · exact State.endsWithin_complete _
  | ctxClose | c16Initf | c16Initx | c32Init | md5Init | shaInit | xmPad _ | xmMaxr _ =>
    cases h; exact State.endsWithin_complete _
  | rxDrain => cases h; exact State.endsWithin_inContext (State.endsWithin_complete _)
  | txRaw | slEnc =>
    cases h
    exact State.endsWithin_inContext <| State.endsWithin_withInput fun _ => State.endsWithin_txFinal _ _
  | lpEnc _ | slCmd _ | w21Enc =>
    cases h
    exact State.endsWithin_inContext <| State.endsWithin_withInput fun _ => State.endsWithin_withLength _ <|
      State.endsWithin_txFinal _ _
  | rxRaw =>
    cases h
    exact State.endsWithin_inContext <| State.endsWithin_withRange _ _ <| State.endsWithin_suspendUnless _ _ _
      s.endsWithin_rxRawReady
  | c16Updb _ | c16Rd => cases h; exact State.endsWithin_withV16 (State.endsWithin_complete _)
  | c32Updb _ | c32Rd => cases h; exact State.endsWithin_withV32 (State.endsWithin_complete _)
  | c16Updm =>
    cases h
    exact State.endsWithin_withV16 <| State.endsWithin_withInput fun _ => State.endsWithin_complete _
  | c32Updm =>
    cases h
    exact State.endsWithin_withV32 <| State.endsWithin_withInput fun _ => State.endsWithin_complete _
  | c16Calcf | c16Calcx | c32Calc | slXsum =>
    cases h; exact State.endsWithin_withInput fun _ => State.endsWithin_complete _
  | md5Updb _ =>
    cases h
    exact State.endsWithin_withVmd5 <| State.endsWithin_withMd5Room _ <| State.endsWithin_complete _
  | shaUpdb _ =>
    cases h
    exact State.endsWithin_withVsha <| State.endsWithin_withShaRoom _ <| State.endsWithin_complete _
  | md5Updm =>
    cases h
    exact State.endsWithin_withVmd5 <| State.endsWithin_withInput fun _ => State.endsWithin_withMd5Room _ <|
      State.endsWithin_complete _
  | shaUpdm =>
    cases h
    exact State.endsWithin_withVsha <| State.endsWithin_withInput fun _ => State.endsWithin_withShaRoom _ <|
      State.endsWithin_complete _
  | md5Fin => cases h; exact State.endsWithin_withVmd5 <| State.endsWithin_withRange _ _ <| State.endsWithin_complete _
  | shaFin => cases h; exact State.endsWithin_withVsha <| State.endsWithin_withRange _ _ <| State.endsWithin_complete _
  | md5Calc | shaCalc =>
    cases h
    exact State.endsWithin_withInput fun _ => State.endsWithin_withRange _ _ <| State.endsWithin_complete _
  | xmSend => cases h; exact (run _).xmSendStart.endsWithin_settle s.endsWithin_xmSendStart
  | brSet =>
    cases h
    exact State.endsWithin_inContext <| State.endsWithin_withRate <| State.endsWithin_complete _
  | brNegBk => cases h; exact (run _).bkStart.endsWithin_settle s.endsWithin_bkStart
  | brNegEsp => cases h; exact (run _).espStart.endsWithin_settle s.endsWithin_espStart
  | brNegWm => cases h; exact (run _).wmStart.endsWithin_settle s.endsWithin_wmStart
  | lpDec imm => cases h; exact ((run _).lpDecStart rfl).endsWithin_settle (s.endsWithin_lpDecStart _)
  | slDec =>
    cases h
    exact State.endsWithin_inContext <| State.endsWithin_suspendUnless _ _ _ s.endsWithin_slDecReady
  | slRsp op =>
    cases h
    refine State.endsWithin_withInput fun f => ?_
    split
    · exact s.endsWithin_raise _ _ (code_mem_of_espResponse_bad ‹_›)
    · exact State.endsWithin_complete _
  | w21Chk =>
    cases h
    refine State.endsWithin_withInput fun b => ?_
    split
    · exact s.endsWithin_raise _ _
    · exact State.endsWithin_complete _

end Run

/-- R333 for the block's own run, and for a `Timeout` and the run after it, from a suspension point. -/
theorem State.endsWithin_of_suspended {u : State} {c : Cont} (hc : u.cont = some c) :
    u.settle.EndsWithin c.instr ∧ u.timeoutRaised.settle.EndsWithin c.instr := by
  have hsettle := (State.ran_of_cont hc).endsWithin_settle (u.endsWithin_of_cont c hc)
  refine ⟨hsettle, ?_⟩
  cases hr : u.contReady c with
  | true =>
    have hstays : u.timeoutRaised = u := by simp [State.timeoutRaised, hc, hr]
    rw [hstays]
    exact hsettle
  | false =>
    rw [u.timeoutRaised_of_not_contReady c hc hr]
    exact (u.ran_expire c).endsWithin_settle (u.uncont.endsWithin_expire c)

/-- R333 for a step of the machine at a suspension point. -/
theorem endsWithin_of_step {s t : State} {c : Cont} (hb : s.ctrl.busy = true) (hc : s.cont = some c)
    (h : step s = .next t) : t.EndsWithin c.instr := by
  rcases step_cases h with ⟨w, rest, hp, _⟩ | ⟨u, hu, ht⟩
  · cases hb.symm.trans hp.2
  · obtain ⟨_, _, hcont, _⟩ := hu.unmoved
    have huc : u.cont = some c := hcont.trans hc
    obtain ⟨hsettle, hexpire⟩ := State.endsWithin_of_suspended huc
    rcases ht with rfl | rfl | rfl
    · exact t.endsWithin_of_cont c huc
    · exact hsettle
    · exact hexpire

/-- Settles O56: from the acceptance (`endsWithin_of_exec`) and from a suspension point (`endsWithin_of_step`). -/
theorem faultCodesByOperation : Obligations.FaultCodesByOperation := by
  refine ⟨fun i s t h => endsWithin_of_exec h, fun s t c hinv hc h => endsWithin_of_step ?_ hc h⟩
  rw [hinv.busy, hc]
  rfl

/-- Settles O6: the host port's refusal of a word (`State.step_of_present_busy`), written out. -/
theorem busyRefusesWord : Obligations.BusyRefusesWord :=
  fun s w rest ht hb => s.step_of_present_busy rest w ht hb

/-- Settles O10: each value as the reset state has it. -/
theorem resetValues : Obligations.ResetValues :=
  ⟨rfl, rfl, rfl, rfl, rfl, rfl, rfl, rfl, rfl, rfl, rfl, rfl, rfl, rfl, rfl, rfl, rfl, rfl⟩

end Sys2Proof.Machine
end
